-- ==== Sys2Proof/Word.lean ====
section
/-! DEFINITION. The widths the spec gives its values (00_scope.md R11, 30_encoding.md R61, R65). A window
offset as the mux sees it is a plain Nat (R31, R63): the offset after 0xff is 0x100, a null offset, and does not wrap (R42). -/

namespace Sys2Proof

/-- A byte of a bus access (R40). -/
abbrev Byte := BitVec 8

/-- The 16-bit value of a 2-byte access (R40, R131). -/
abbrev Half := BitVec 16

/-- A BUS transaction word (R61). -/
abbrev BusWord := BitVec 32

/-- A DISP dispatch key (R65). -/
abbrev DispKey := BitVec 11

end Sys2Proof
end

