-- ==== Sys2Proof/Machine/RegisterMap.lean ====
section
/-! DEFINITION. The literals of 00_scope.md R9, each under the spec's name for it (D20: the source's literals are unaudited,
so each of its thirteen rows is named once and a correction changes one definition), and the REGION decode of 30_encoding.md R64. -/

namespace Sys2Proof

/-- Bus port number of window offset 0x00 (R9 `LEGACY_BASE`). -/
def legacyBase : Nat := 0x3c0

/-- R9 `GENERIC_SET`: the offsets always passed to the generic handler (R32). -/
def genericSet : List Nat :=
  [0x00, 0x01, 0x02, 0x03, 0x04, 0x05, 0x06, 0x07, 0x08, 0x09, 0x0a, 0x0c, 0x0e, 0x0f, 0x14, 0x1a]

/-- R9 `INDEX_PORT`: the offset of the controller-index register (R27). -/
def indexPort : Nat := 0x14

/-- R9 `DATA_PORT`: the offset of the indexed data port (R22). -/
def dataPort : Nat := 0x15

/-- R9 `SC_RD_IDX`. -/
def scRdIdx : Byte := 0x3e

/-- R9 `SC_WR_IDX`. -/
def scWrIdx : Byte := 0x3f

/-- R9 `WR_CLK_BIT`. -/
def wrClkBit : Nat := 5

/-- R9 `WR_DAT_BIT`. -/
def wrDatBit : Nat := 4

/-- R9 `RD_DAT_BIT`. -/
def rdDatBit : Nat := 3

/-- R9 `RD_CLK_BIT`. -/
def rdClkBit : Nat := 2

/-- R9, R43: the access widths, in bytes, the block itself handles. -/
def implementableWidths : List Nat := [1, 2]

/-- R9, R43: the access widths, in bytes, the bus may present; what is valid here and not implementable above is converted outside
the block. -/
def validWidths : List Nat := [1, 2, 4]

/-- The two ways of composing a 2-byte access. -/
inductive ByteOrder where
  /-- The byte at the lower offset is bits 7:0. -/
  | little
  /-- The byte at the lower offset is bits 15:8. -/
  | big
  deriving DecidableEq, Repr

/-- R9, R40: the byte order of a 2-byte access, which nothing switches. -/
def byteOrder : ByteOrder := .little

/-- The least `WIN_SIZE` R10 and D3 allow: it covers offset 0x1a. -/
def winSizeMin : Nat := 0x1b

/-- The greatest `WIN_SIZE` R10 and D3 allow. -/
def winSizeMax : Nat := 0x100

/-- The least `BUS_BITS` R10 and D4 allow. -/
def busBitsMin : Nat := 16

/-- The width adapter's `base`, in window offsets (R129, D2; DESIGN CHOICE of the spec, log 21). -/
def base : Nat := 0

/-- R129: the mux offset of the first byte of an access at region offset `off`. -/
def muxOffset (off : Byte) : Nat := base + off.toNat

/-- The legacy bus port number of a window offset (R31, R32). -/
def portOf (o : Nat) : Nat := legacyBase + o

/-- The offset classes of R64. -/
inductive OffClass where
  /-- No register: a read answers 0, a write is dropped. -/
  | null
  /-- Passed to the generic handler. -/
  | generic
  /-- The data port, intercepted by the controller index. -/
  | data
  deriving DecidableEq, Repr

/-- R64: the 2-bit code of a class; 0b11 is the code of none. -/
def classCode : OffClass → BitVec 2
  | .null => 0b00
  | .generic => 0b01
  | .data => 0b10

/-- R64 `C(o)`: the offset alone decides. -/
def classify (o : Nat) : OffClass :=
  if o = dataPort then .data else if o ∈ genericSet then .generic else .null

end Sys2Proof
end

