-- ==== Sys2Proof/Syntax.lean ====
section
/-! DEFINITION. The operations of spec/opcode_table.json, one constructor a row: the five bus transactions (41_shim.md,
70_reset_and_hazards.md R170) and the eight dispatch operations of the mux (40_dispatcher.md). -/

namespace Sys2Proof

inductive Instr where
  /-- RD8: 1-byte read at window offset `off` (R130). -/
  | rd8 (off : Byte)
  /-- RD16: 2-byte little-endian read (R131). -/
  | rd16 (off : Byte)
  /-- WR8: 1-byte write of DATA[7:0] (R132, R63). -/
  | wr8 (off : Byte) (b : Byte)
  /-- WR16: 2-byte write, low byte first (R133). -/
  | wr16 (off : Byte) (v : Half)
  /-- RESET: clear both lines (R170). -/
  | reset
  /-- SC_RD: data-port read under `SC_RD_IDX` (R102). -/
  | scRd
  /-- SC_WR: data-port write under `SC_WR_IDX` (R103). -/
  | scWr (b : Byte)
  /-- DP_GEN_RD: data-port read under another index `i` (R104). -/
  | dpGenRd (i : Byte)
  /-- DP_GEN_WR: data-port write of `b` under another index `i` (R105). -/
  | dpGenWr (i : Byte) (b : Byte)
  /-- GEN_RD: read at the generic offset `o` (R106). -/
  | genRd (o : Nat)
  /-- GEN_WR: write of `b` at the generic offset `o` (R107). -/
  | genWr (o : Nat) (b : Byte)
  /-- NUL_RD: read at the null offset `o` (R108). -/
  | nulRd (o : Nat)
  /-- NUL_WR: write of `b` at the null offset `o` (R109). -/
  | nulWr (o : Nat) (b : Byte)
  deriving DecidableEq, Repr

/-- What the block decodes: a BUS word (R61), or the DISP key of one byte access together with that access's offset and, for a
write, its byte (R65: the key carries neither; the access descriptor of R15 does). -/
inductive Fetched where
  | bus (t : BusWord)
  | disp (k : DispKey) (o : Nat) (b : Byte)
  deriving DecidableEq, Repr

end Sys2Proof
end

