-- ==== Sys2Proof/WellFormed.lean ====
section
/-! DEFINITION. The operand conditions of the opcode table's rows. -/

namespace Sys2Proof

/-- The conditions 40_dispatcher.md puts on the operands of a dispatch operation: R104 and R105 exclude the side channel's own
index, R106 and R107 want a generic offset, R108 and R109 a null one. A bus transaction admits every operand (R42, R63); the
window's edge is no property of the transaction but of `WIN_SIZE` (R47). -/
def Instr.wf : Instr → Bool
  | .rd8 _ => true
  | .rd16 _ => true
  | .wr8 _ _ => true
  | .wr16 _ _ => true
  | .reset => true
  | .scRd => true
  | .scWr _ => true
  | .dpGenRd i => i != scRdIdx
  | .dpGenWr i _ => i != scWrIdx
  | .genRd o => classify o == .generic
  | .genWr o _ => classify o == .generic
  | .nulRd o => classify o == .null
  | .nulWr o _ => classify o == .null

end Sys2Proof
end

