-- ==== Sys2Proof/Decode.lean ====
section
/-! DEFINITION. The BUS and DISP decoders of 30_encoding.md (R61 to R66, R69, R73), total on every word and key and rejecting by
name, and after them the encoder, written from the same tables. -/

namespace Sys2Proof

/-- Why a word or key is no operation of the block. -/
inductive DecodeError where
  /-- Headers 0x2 and 0x6 (R62, R134): a valid width that is not implementable (R9). -/
  | fourByteAccess
  /-- Headers 0x3 and 0x7 (R62, R134): no valid width. -/
  | eightByteAccess
  /-- Headers 0x9 to 0xf (R62, R69). -/
  | reservedHeader
  /-- Class code 0b11, which R64 never produces (the model's own name, log 25). -/
  | unbuiltClass
  /-- A key whose class is not the class of its access's offset: R65 builds none (the model's own name, log 25). -/
  | classMismatch
  deriving DecidableEq, Repr

/-! ## BUS -/

/-- R61: the header nibble `H = T[31:28]`. -/
def busHeader (t : BusWord) : BitVec 4 := t.extractLsb' 28 4

/-- R61: the width in bytes a header's `SZ` names, `1 << SZ`; a header with the reset bit `R` names none. -/
def headerWidth (h : BitVec 4) : Option Nat :=
  if h.getLsbD 3 then none else some (1 <<< (h.extractLsb' 0 2).toNat)

/-- R43, R134: whether a header is an access of a width the block does not handle. -/
def widthRefused (h : BitVec 4) : Bool :=
  match headerWidth h with
  | some n => decide (n ∉ implementableWidths)
  | none => false

/-- R61, R63: the window offset `T[23:16]`. -/
def busOff (t : BusWord) : Byte := t.extractLsb' 16 8

/-- R61, R63: the write value `T[15:0]`. -/
def busData (t : BusWord) : Half := t.extractLsb' 0 16

/-- The operations of the BUS opcode map (R62). -/
inductive BusOp where
  | rd8 | rd16 | wr8 | wr16 | reset
  deriving DecidableEq, Repr

/-- A row of the BUS opcode map, as opcode_table.json gives it. -/
structure BusRow where
  pattern : BusWord
  mask : BusWord
  op : BusOp
  deriving DecidableEq, Repr

/-- R62 (opcode_table.json, format BUS). -/
def busRows : List BusRow :=
  [ ⟨0x00000000, 0xf0000000, .rd8⟩, ⟨0x10000000, 0xf0000000, .rd16⟩, ⟨0x40000000, 0xf0000000, .wr8⟩,
    ⟨0x50000000, 0xf0000000, .wr16⟩, ⟨0x80000000, 0xf0000000, .reset⟩ ]

/-- R62, R43: the name under which a header outside the map is refused: a width the bus contract counts valid is the 4-byte one, a
width it does not the 8-byte one. -/
def busError (h : BitVec 4) : DecodeError :=
  match headerWidth h with
  | some n => if n ∈ validWidths then .fourByteAccess else .eightByteAccess
  | none => .reservedHeader

/-- R63: operand assembly. `T[27:24]` and every bit the operation ignores are not looked at. -/
def busInstr (op : BusOp) (t : BusWord) : Instr :=
  match op with
  | .rd8 => .rd8 (busOff t)
  | .rd16 => .rd16 (busOff t)
  | .wr8 => .wr8 (busOff t) ((busData t).extractLsb' 0 8)
  | .wr16 => .wr16 (busOff t) (busData t)
  | .reset => .reset

/-- R62: the row of the map a word matches, once its width is one the block handles. -/
def decodeBus (t : BusWord) : Except DecodeError Instr :=
  if widthRefused (busHeader t) then .error (busError (busHeader t))
  else
    match busRows.find? (fun r => t &&& r.mask == r.pattern) with
    | some r => .ok (busInstr r.op t)
    | none => .error (busError (busHeader t))

/-! ## DISP -/

/-- R65: the key `{W, C, I}`. -/
def dispKey (w : Bool) (c : OffClass) (i : Byte) : DispKey := BitVec.ofBool w ++ classCode c ++ i

/-- R65: the key's `W` field. -/
def dispIsWrite (k : DispKey) : Bool := k.getLsbD 10

/-- R65: the key's `I` field. -/
def dispIndex (k : DispKey) : Byte := k.extractLsb' 0 8

/-- The operations of the DISP match table (R66). -/
inductive DispOp where
  | scRd | scWr | dpGenRd | dpGenWr | genRd | genWr | nulRd | nulWr
  deriving DecidableEq, Repr

/-- A row of the DISP match table, with the class its `C` field fixes. -/
structure DispRow where
  pattern : DispKey
  mask : DispKey
  cls : OffClass
  op : DispOp
  deriving DecidableEq, Repr

/-- R66, in priority order (the first row that matches is taken). Rows 1 and 2 are 0x23e and 0x63f. -/
def dispRows : List DispRow :=
  [ ⟨0x200 ||| scRdIdx.setWidth 11, 0x7ff, .data, .scRd⟩, ⟨0x600 ||| scWrIdx.setWidth 11, 0x7ff, .data, .scWr⟩,
    ⟨0x200, 0x700, .data, .dpGenRd⟩, ⟨0x600, 0x700, .data, .dpGenWr⟩,
    ⟨0x100, 0x700, .generic, .genRd⟩, ⟨0x500, 0x700, .generic, .genWr⟩,
    ⟨0x000, 0x700, .null, .nulRd⟩, ⟨0x400, 0x700, .null, .nulWr⟩ ]

/-- The operands of R102 to R109, from the key and the access it was built for. -/
def dispInstr (op : DispOp) (k : DispKey) (o : Nat) (b : Byte) : Instr :=
  match op with
  | .scRd => .scRd
  | .scWr => .scWr b
  | .dpGenRd => .dpGenRd (dispIndex k)
  | .dpGenWr => .dpGenWr (dispIndex k) b
  | .genRd => .genRd o
  | .genWr => .genWr o b
  | .nulRd => .nulRd o
  | .nulWr => .nulWr o b

/-- R66 selects by the key alone; that a key must be of its access's class is the model's own check, which no key R65 builds fails
(log 25). -/
def decodeDisp (k : DispKey) (o : Nat) (b : Byte) : Except DecodeError Instr :=
  match dispRows.find? (fun r => k &&& r.mask == r.pattern) with
  | none => .error .unbuiltClass
  | some r => if classify o = r.cls then .ok (dispInstr r.op k o b) else .error .classMismatch

/-- The one decoder: of a BUS word, or of the key of a byte access. -/
def decode : Fetched → Except DecodeError Instr
  | .bus t => decodeBus t
  | .disp k o b => decodeDisp k o b

/-! ## Encoding -/

/-- R61: a BUS word with the given header, offset and data, every reserved bit 0. -/
def busWord (h : BitVec 4) (off : Byte) (data : Half) : BusWord := h ++ (0 : BitVec 4) ++ off ++ data

/-- The canonical encoding of an operation: R63 puts 0 in every ignored and reserved bit, R65 puts 0 in `I` away from the data
port, and the access of a read carries no byte. -/
def encode : Instr → Fetched
  | .rd8 off => .bus (busWord 0x0 off 0)
  | .rd16 off => .bus (busWord 0x1 off 0)
  | .wr8 off b => .bus (busWord 0x4 off (b.setWidth 16))
  | .wr16 off v => .bus (busWord 0x5 off v)
  | .reset => .bus (busWord 0x8 0 0)
  | .scRd => .disp (dispKey false .data scRdIdx) dataPort 0
  | .scWr b => .disp (dispKey true .data scWrIdx) dataPort b
  | .dpGenRd i => .disp (dispKey false .data i) dataPort 0
  | .dpGenWr i b => .disp (dispKey true .data i) dataPort b
  | .genRd o => .disp (dispKey false .generic 0) o 0
  | .genWr o b => .disp (dispKey true .generic 0) o b
  | .nulRd o => .disp (dispKey false .null 0) o 0
  | .nulWr o b => .disp (dispKey true .null 0) o b

/-! ## A word of the opcode table -/

/-- The class a key's `C` field names, if any (R64). -/
def keyClass (k : DispKey) : Option OffClass :=
  let c : BitVec 2 := k.extractLsb' 8 2
  if c = 0b00 then some .null else if c = 0b01 then some .generic else if c = 0b10 then some .data else none

/-- The offset a bare DISP key stands for: the data port for DATA, the least offset of the class for GENERIC and NULL (DESIGN
CHOICE, log 19: the table's row has no bits for the offset). -/
def keyOffset : OffClass → Nat
  | .data => dataPort
  | .generic => 0x00
  | .null => 0x0b

/-- A DISP row of the table is at most 16 bits wide in whole bytes; a BUS row is 32. -/
def isDispWidth (nbits : Nat) : Bool := nbits ≤ 16

/-- What the decoder reads from a word of the opcode table: a BUS word, or a DISP key with the byte 0 and the key's own offset. -/
def decodeTableWord (nbits w : Nat) : Option Instr :=
  if isDispWidth nbits then
    if w < 2 ^ 11 then
      match keyClass (BitVec.ofNat 11 w) with
      | some c => (decodeDisp (BitVec.ofNat 11 w) (keyOffset c) 0).toOption
      | none => none
    else none
  else if w < 2 ^ 32 then (decodeBus (BitVec.ofNat 32 w)).toOption
  else none

end Sys2Proof
end

