-- ==== Sys2Proof/Config.lean ====
section
/-! DEFINITION. What the spec leaves to the generic subsystem or leaves open, as constants with no body (92_eei_decisions.md D3,
D4, D12, D13; 93_implementation_defined.md I1 to I8). Nothing can evaluate them, so what is proved holds for every value. -/

namespace Sys2Proof

/-- `G`, the generic subsystem's own state type (R10, D12): the controller index it holds, which the block can see, and all the rest
of it, which the block cannot, as a code of its own (log 3). -/
structure GenericState where
  /-- What `CurrentControllerIndex()` answers (R26). -/
  index : Byte
  /-- Everything else the subsystem holds. -/
  other : Nat
  deriving DecidableEq, Repr, Inhabited

/-! The collaborator `Generic` (R10, D12, I1), an argument of the model: constants with no body. Each takes the subsystem's state, the
number of the draw, for a call that is open beyond that state, and the call's own arguments. -/

/-- FREE VALUE (I1, N16): `GenericRead(o)`, the byte answered and the state left. Log 3. -/
opaque Config.genericRead : GenericState → (draw o : Nat) → Byte × GenericState

/-- FREE VALUE (I1, I3, N5): `GenericWrite(o, b)`, the state left. Log 3. -/
opaque Config.genericWrite : GenericState → (draw o : Nat) → (b : Byte) → GenericState

/-- FREE VALUE (I2, D13): the state the subsystem's own reset or reload leaves. Log 3, 17. -/
opaque Config.genericReinit : GenericState → (draw : Nat) → GenericState

/-- FREE VALUE (D12, D13): what the subsystem holds at construction beside its index. Log 3. -/
opaque Config.genAtReset : Nat

/-- FREE VALUE (R172, D13): the controller index at construction. Log 5. -/
opaque Config.cidxAtReset : Byte

/-- PARAMETER (R10, D3, I7): how far `WIN_SIZE` exceeds its least value; 0x1b + 229 = 0x100. Log 6. -/
opaque Config.winExtra : Fin 230

/-- PARAMETER (R10, D4, I8): how far `BUS_BITS` exceeds its least value. Log 7. -/
opaque Config.busExtra : Nat

/-- `WIN_SIZE` at reset: any value R10 allows. -/
def Config.winSize : Nat := Config.winExtra.val + winSizeMin

/-- `BUS_BITS` at reset: any value R10 allows. -/
def Config.busBits : Nat := Config.busExtra + busBitsMin

/-- What is assumed of the generic subsystem's index (D12). -/
inductive GenericEnv where
  /-- Nothing: every generic call may leave any controller index. -/
  | unconstrained
  /-- The reference environment: the named premise `GENERIC_INDEX_LAW`, under which a write at `INDEX_PORT` sets the index to
  the byte written and no other call changes it. -/
  | reference
  deriving DecidableEq, Repr

/-- The parameters R10 says a model takes as arguments. -/
structure Params where
  /-- `WIN_SIZE` (D3). -/
  winSize : Nat
  /-- `BUS_BITS` (D4). -/
  busBits : Nat
  /-- The generic subsystem's law (D12). -/
  env : GenericEnv
  deriving DecidableEq, Repr

/-- The bounds R10 puts on the parameters. -/
def Params.wf (p : Params) : Bool :=
  winSizeMin ≤ p.winSize && p.winSize ≤ winSizeMax && busBitsMin ≤ p.busBits

end Sys2Proof
end

