-- ==== Sys2Proof/Machine/State.lean ====
section
/-! DEFINITION. The machine's state as plain data, what a step can stop with, and the state right after construction. -/

namespace Sys2Proof.Machine

/-- One call into the generic subsystem, with what it answered (R13). -/
inductive GenericCall where
  /-- `CurrentControllerIndex()` answered `i`. -/
  | index (i : Byte)
  /-- `GenericRead(o)` answered `g`. -/
  | read (o : Nat) (g : Byte)
  /-- `GenericWrite(o, b)`. -/
  | write (o : Nat) (b : Byte)
  deriving DecidableEq, Repr

/-- What a completed operation answers its issuer. -/
inductive Answer where
  /-- A write, a reset or a restore answers nothing. -/
  | nothing
  /-- A byte access of the mux, or RD8, answers a byte. -/
  | byte (b : Byte)
  /-- RD16 answers a 16-bit value. -/
  | half (v : Half)
  /-- A save yields the two lines (R28, R161). -/
  | lines (clk dat : Bool)
  deriving DecidableEq, Repr

/-- One entry of the host's transaction list (R30, R161). -/
inductive HostOp where
  /-- A bus transaction (R61). -/
  | bus (t : BusWord)
  /-- A byte read presented to the mux, `DRead(o)`, at an offset of the window (R100, D1, R47). -/
  | byteRead (o : Nat)
  /-- A byte write presented to the mux, `DWrite(o, b)`, at an offset of the window (R100, D1, R47). -/
  | byteWrite (o : Nat) (b : Byte)
  /-- The host saves the persisted state (R28). -/
  | save
  /-- The host restores the persisted state, any of the four pairs (R28, D18). -/
  | restore (clk dat : Bool)
  /-- The generic subsystem is reset or reloaded by its own means (R172, D13). -/
  | genericReinit
  deriving DecidableEq, Repr

structure State where
  /-- `LS.clk`, the clock line (R21). -/
  clk : Bool
  /-- `LS.dat`, the data line (R21). -/
  dat : Bool
  /-- `CIDX`, the generic subsystem's controller index (R26). -/
  cidx : Byte
  /-- The rest of the generic subsystem's state (R10's `G`, D12), of which the block sees nothing. -/
  gen : Nat
  /-- The parameters of R10. -/
  params : Params
  /-- What the last completed operation answered. -/
  ret : Answer
  /-- The host's transaction list (R30, D14). -/
  txns : List HostOp
  /-- The host's position in it (R30, D14). -/
  pos : Nat
  /-- The model's own: how many free values have been drawn. -/
  draws : Nat
  /-- The model's own: the calls made into the generic subsystem, oldest first. -/
  calls : List GenericCall
  deriving DecidableEq, Repr

/-- The block raises no exception, fault or error of any kind (R150), and the model adds none: there is nothing here, so no step
can end in a fault. -/
inductive Fault where
  deriving DecidableEq, Repr

/-- Why a step is refused. Each is a refusal of the model at the block's boundary, not a behaviour of the block (R151). -/
inductive Refusal where
  /-- Raised by no arm of `exec`: every instruction has its meaning. Safe. -/
  | notModelled (mnemonic : String)
  /-- Raised by `step` on a BUS word of header 0x2 or 0x6 (R134, D8). Safe: the block never sees one. -/
  | fourByteAccess
  /-- Raised by `step` on a BUS word of header 0x3 or 0x7 (R134). Safe. -/
  | eightByteAccess
  /-- Raised by `step` on a BUS word of header 0x9 to 0xf (R134, R69). Safe. -/
  | reservedHeader
  /-- Raised by RD8, RD16, WR8 and WR16, and by `step` on a byte access presented to the mux, at an offset at or past `WIN_SIZE`
  (R47, D3). Safe. -/
  | outsideWindow
  /-- Would be raised by `step` on a DISP key that R65 builds for no access; no byte access presents one. Safe. -/
  | unbuiltKey
  deriving DecidableEq, Repr

/-- The block at construction: both lines 0 (R171); the controller index and whatever else
the generic subsystem holds free values (R172, D13); nothing answered, nothing pending,
no call made. The parameters are free within R10's bounds, under the reference environment of D12 (log 3 to 7). -/
def State.reset : State where
  clk := false
  dat := false
  cidx := Config.cidxAtReset
  gen := Config.genAtReset
  params := { winSize := Config.winSize, busBits := Config.busBits, env := .reference }
  ret := .nothing
  txns := []
  pos := 0
  draws := 0
  calls := []

end Sys2Proof.Machine
end

