-- ==== Sys2Proof/Machine/Flags.lean ====
section
/-! DEFINITION. The block has no flags (10_state.md R20). Its only status bits are the two lines; here are the byte layouts through
which software writes and reads them (30_encoding.md R67, R68). -/

namespace Sys2Proof.Machine

/-- R67: the clock line a written byte carries. -/
def writtenClk (b : Byte) : Bool := b.getLsbD wrClkBit

/-- R67: the data line a written byte carries. -/
def writtenDat (b : Byte) : Bool := b.getLsbD wrDatBit

/-- A line as a byte of value 0 or 1 (R11: a boolean in a numeric context). -/
def lineByte (l : Bool) : Byte := (BitVec.ofBool l).setWidth 8

/-- R67: the byte that encodes a line pair for writing, `(clk << 5) | (dat << 4)`. -/
def writeView (clk dat : Bool) : Byte := lineByte clk <<< wrClkBit ||| lineByte dat <<< wrDatBit

/-- R68: the byte a qualifying read returns, `(dat << 3) | (clk << 2)`. -/
def readView (clk dat : Bool) : Byte := lineByte dat <<< rdDatBit ||| lineByte clk <<< rdClkBit

end Sys2Proof.Machine
end

