-- ==== Sys2Proof/Machine/Operands.lean ====
section
/-! DEFINITION. How a bus value is cut into bytes and put together again (20_memory.md R40, R46). -/

namespace Sys2Proof.Machine

/-- `v[7:0]`: the low byte of a write value of any width (R40, R46, R132). -/
def lowByte {n : Nat} (v : BitVec n) : Byte := v.extractLsb' 0 8

/-- `v[15:8]`: the high byte of a 2-byte write value (R40, R46, R133). -/
def highByte {n : Nat} (v : BitVec n) : Byte := v.extractLsb' 8 8

/-- The byte at `off` of a 2-byte write value, in the block's byte order (R9, R40). -/
def firstByte {n : Nat} (v : BitVec n) : Byte :=
  match byteOrder with
  | .little => lowByte v
  | .big => highByte v

/-- The byte at `off + 1` of a 2-byte write value, in the block's byte order (R9, R40). -/
def secondByte {n : Nat} (v : BitVec n) : Byte :=
  match byteOrder with
  | .little => highByte v
  | .big => lowByte v

/-- The value of a 2-byte read from the bytes at `off` and `off + 1`, in the block's byte order (R9, R40, R131). -/
def joinBytes (first second : Byte) : Half :=
  match byteOrder with
  | .little => second ++ first
  | .big => first ++ second

/-- R46: the data word the bus carries back, the value zero-extended to `n` = `BUS_BITS` bits; an operation that is no read
drives none. -/
def busResult (n : Nat) : Answer → Option (BitVec n)
  | .byte b => some (b.setWidth n)
  | .half v => some (v.setWidth n)
  | .nothing => none
  | .lines _ _ => none

end Sys2Proof.Machine
end

