-- ==== Sys2Proof/Machine/Ops.lean ====
section
/-! DEFINITION. The operations every meaning is built from: the lines, the three calls into the generic subsystem (00_scope.md R13),
the mux's byte read and write (40_dispatcher.md R100), the width adapter (41_shim.md R129 to R133) and the host's own actions. The
block takes no exception (60_exceptions.md R150, R154), so there is no entry and no return to share. -/

namespace Sys2Proof.Machine

/-! ## The answer, the position, the lines -/

def answer (r : Answer) (s : State) : State := { s with ret := r }

/-- R30: the host's position moves past one completed transaction. -/
def advance (s : State) : State := { s with pos := s.pos + 1 }

/-- Both lines at once: no step changes one alone (R25, R103). -/
def setLines (clk dat : Bool) (s : State) : State := { s with clk := clk, dat := dat }

/-- R102: the byte a qualifying read returns. -/
def scRead (s : State) : Byte := readView s.clk s.dat

/-- R103: both lines from one written byte. -/
def scWrite (b : Byte) (s : State) : State := setLines (writtenClk b) (writtenDat b) s

/-- R170: both lines to 0. -/
def clearLines (s : State) : State := setLines false false s

/-! ## The generic subsystem -/

def record (c : GenericCall) (s : State) : State := { s with calls := s.calls ++ [c] }

/-- R26, R101: `CurrentControllerIndex()`. It reads the index and changes nothing (D11). -/
def sampleIndex (s : State) : Byte × State := (s.cidx, record (.index s.cidx) s)

/-- The generic subsystem's state, as R10's `G` (D12). -/
def generic (s : State) : GenericState := { index := s.cidx, other := s.gen }

/-- What the generic handler answers to a read at `o`: any byte (I1). -/
def genericAnswer (o : Nat) (s : State) : Byte := (Config.genericRead (generic s) s.draws o).1

/-- The generic subsystem's state after a read at `o`, but for its index. -/
def genAfterRead (o : Nat) (s : State) : Nat := (Config.genericRead (generic s) s.draws o).2.other

/-- The generic subsystem's state after a write of `b` at `o`, but for its index. -/
def genAfterWrite (o : Nat) (b : Byte) (s : State) : Nat := (Config.genericWrite (generic s) s.draws o b).other

/-- The index a generic read leaves: the one before it under `GENERIC_INDEX_LAW`, else the subsystem's own (D12, I1). -/
def indexAfterRead (o : Nat) (s : State) : Byte :=
  match s.params.env with
  | .reference => s.cidx
  | .unconstrained => (Config.genericRead (generic s) s.draws o).2.index

/-- The index a generic write leaves: under `GENERIC_INDEX_LAW` the byte written if the write is at `INDEX_PORT` and the one before
it if not; else the subsystem's own (D12, I3). -/
def indexAfterWrite (o : Nat) (b : Byte) (s : State) : Byte :=
  match s.params.env with
  | .reference => if o = indexPort then b else s.cidx
  | .unconstrained => (Config.genericWrite (generic s) s.draws o b).index

/-- The generic subsystem at a new state, one draw on: the one way its state changes. -/
def setGeneric (g : GenericState) (s : State) : State :=
  { s with cidx := g.index, gen := g.other, draws := s.draws + 1 }

/-- R13: `GenericRead(o)`. It may change the generic subsystem alone, never the lines (D12 (a)). -/
def genericRead (o : Nat) (s : State) : Byte × State :=
  (genericAnswer o s,
    record (.read o (genericAnswer o s)) (setGeneric ⟨indexAfterRead o s, genAfterRead o s⟩ s))

/-- R13: `GenericWrite(o, b)`. -/
def genericWrite (o : Nat) (b : Byte) (s : State) : State :=
  record (.write o b) (setGeneric ⟨indexAfterWrite o b s, genAfterWrite o b s⟩ s)

/-- D13: the generic subsystem's own reset or reload leaves it in any state; the lines are not its own. -/
def genericReinit (s : State) : State := setGeneric (Config.genericReinit (generic s) s.draws) s

/-! ## The mux -/

/-- R100, `DRead(o)`: the byte returned and the state left. The index is sampled once, and at the data port alone (R101). -/
def dread (o : Nat) (s : State) : Byte × State :=
  if o = dataPort then
    let (i, t) := sampleIndex s
    if i = scRdIdx then (scRead t, t) else genericRead o t
  else if o ∈ genericSet then genericRead o s
  else (0, s)

/-- R100, `DWrite(o, b)`. -/
def dwrite (o : Nat) (b : Byte) (s : State) : State :=
  if o = dataPort then
    let (i, t) := sampleIndex s
    if i = scWrIdx then scWrite b t else genericWrite o b t
  else if o ∈ genericSet then genericWrite o b s
  else s

/-- R65: the key of a byte access at `o`, and the state after any sampling of the index. -/
def buildKey (w : Bool) (o : Nat) (s : State) : DispKey × State :=
  if classify o = .data then
    let (i, t) := sampleIndex s
    (dispKey w .data i, t)
  else (dispKey w (classify o) 0, s)

/-! ## The width adapter -/

/-- R47, D3: whether an access at window offset `o` is one the framework delivers. -/
def inWindow (o : Nat) (s : State) : Bool := o < s.params.winSize

/-- R130: `MemRead(off, 1)`. -/
def memRead8 (off : Byte) (s : State) : State :=
  let (v, t) := dread (muxOffset off) s
  answer (.byte v) t

/-- R131: `MemRead(off, 2)`, the byte at `off` read first (D9, log 12), with nothing in between (R44). -/
def memRead16 (off : Byte) (s : State) : State :=
  let (lo, t) := dread (muxOffset off) s
  let (hi, u) := dread (muxOffset off + 1) t
  answer (.half (joinBytes lo hi)) u

/-- R132: `MemWrite(off, 1, v)` for a bus value of any width; bits above 7 are ignored. -/
def memWrite8 {n : Nat} (off : Byte) (v : BitVec n) (s : State) : State :=
  answer .nothing (dwrite (muxOffset off) (lowByte v) s)

/-- R133: `MemWrite(off, 2, v)` for a bus value of any width: the byte at `off` first, then the byte at `off + 1` against the state
it left. -/
def memWrite16 {n : Nat} (off : Byte) (v : BitVec n) (s : State) : State :=
  answer .nothing (dwrite (muxOffset off + 1) (secondByte v) (dwrite (muxOffset off) (firstByte v) s))

/-! ## The host's own actions -/

/-- R28, R161: a save yields the two lines. -/
def saveLines (s : State) : State := answer (.lines s.clk s.dat) s

/-- R28, D18: a restore sets both lines. -/
def restoreLines (clk dat : Bool) (s : State) : State := answer .nothing (setLines clk dat s)

end Sys2Proof.Machine
end

