-- ==== Sys2Proof/Machine/Mux.lean ====
section
/-! DEFINITION. The meanings of the eight dispatch operations of 40_dispatcher.md. Each runs the operation its key selected; the
index was sampled when the key was built (R65, R101). -/

namespace Sys2Proof.Machine

/-- SC_RD (R102). -/
def execScRd (s : State) : Host.Outcome State Fault Refusal := .next (answer (.byte (scRead s)) s)

/-- SC_WR (R103): the generic write handler is not called. -/
def execScWr (b : Byte) (s : State) : Host.Outcome State Fault Refusal := .next (answer .nothing (scWrite b s))

/-- DP_GEN_RD (R104): `GenericRead(DATA_PORT)`, whatever the index that led here. -/
def execDpGenRd (_i : Byte) (s : State) : Host.Outcome State Fault Refusal :=
  let (g, t) := genericRead dataPort s
  .next (answer (.byte g) t)

/-- DP_GEN_WR (R105): `GenericWrite(DATA_PORT, b)`. -/
def execDpGenWr (_i : Byte) (b : Byte) (s : State) : Host.Outcome State Fault Refusal :=
  .next (answer .nothing (genericWrite dataPort b s))

/-- GEN_RD (R106). -/
def execGenRd (o : Nat) (s : State) : Host.Outcome State Fault Refusal :=
  let (g, t) := genericRead o s
  .next (answer (.byte g) t)

/-- GEN_WR (R107). -/
def execGenWr (o : Nat) (b : Byte) (s : State) : Host.Outcome State Fault Refusal :=
  .next (answer .nothing (genericWrite o b s))

/-- NUL_RD (R108): 0, and no collaborator called. -/
def execNulRd (_o : Nat) (s : State) : Host.Outcome State Fault Refusal := .next (answer (.byte 0) s)

/-- NUL_WR (R109): dropped. -/
def execNulWr (_o : Nat) (_b : Byte) (s : State) : Host.Outcome State Fault Refusal := .next (answer .nothing s)

end Sys2Proof.Machine
end

