-- ==== Sys2Proof/Machine/Shim.lean ====
section
/-! DEFINITION. The meanings of the width adapter's bus operations (41_shim.md R130 to R133) and of RESET (70_reset_and_hazards.md
R170). An access outside the declared window is refused (20_memory.md R47); the high byte of a 2-byte access on its last offset is
not such an access (R42). -/

namespace Sys2Proof.Machine

/-- RD8 (R130). -/
def execRd8 (off : Byte) (s : State) : Host.Outcome State Fault Refusal :=
  if inWindow (muxOffset off) s then .next (memRead8 off s) else .refused .outsideWindow

/-- RD16 (R131). -/
def execRd16 (off : Byte) (s : State) : Host.Outcome State Fault Refusal :=
  if inWindow (muxOffset off) s then .next (memRead16 off s) else .refused .outsideWindow

/-- WR8 (R132). -/
def execWr8 (off : Byte) (b : Byte) (s : State) : Host.Outcome State Fault Refusal :=
  if inWindow (muxOffset off) s then .next (memWrite8 off b s) else .refused .outsideWindow

/-- WR16 (R133). -/
def execWr16 (off : Byte) (v : Half) (s : State) : Host.Outcome State Fault Refusal :=
  if inWindow (muxOffset off) s then .next (memWrite16 off v s) else .refused .outsideWindow

/-- RESET (R170): the lines alone; the controller index keeps its value (R172). -/
def execReset (s : State) : Host.Outcome State Fault Refusal := .next (answer .nothing (clearLines s))

end Sys2Proof.Machine
end

