-- ==== Sys2Proof/Machine/Dispatch.lean ====
section
/-! DEFINITION. Which meaning each instruction has, one arm a constructor. -/

namespace Sys2Proof.Machine

def exec (i : Instr) (s : State) : Host.Outcome State Fault Refusal :=
  match i with
  | .rd8 off => Sys2Proof.Machine.execRd8 off s
  | .rd16 off => Sys2Proof.Machine.execRd16 off s
  | .wr8 off b => Sys2Proof.Machine.execWr8 off b s
  | .wr16 off v => Sys2Proof.Machine.execWr16 off v s
  | .reset => Sys2Proof.Machine.execReset s
  | .scRd => Sys2Proof.Machine.execScRd s
  | .scWr b => Sys2Proof.Machine.execScWr b s
  | .dpGenRd j => Sys2Proof.Machine.execDpGenRd j s
  | .dpGenWr j b => Sys2Proof.Machine.execDpGenWr j b s
  | .genRd o => Sys2Proof.Machine.execGenRd o s
  | .genWr o b => Sys2Proof.Machine.execGenWr o b s
  | .nulRd o => Sys2Proof.Machine.execNulRd o s
  | .nulWr o b => Sys2Proof.Machine.execNulWr o b s

end Sys2Proof.Machine
end

