-- ==== Sys2Proof/Machine/Fetch.lean ====
section
/-! DEFINITION. How an entry of the host's transaction list reaches the decoder. The block fetches nothing (20_memory.md R52): the
host presents a bus word, or a byte access whose dispatch key is built on the spot (30_encoding.md R65), or acts on the block
itself (60_exceptions.md R161). -/

namespace Sys2Proof.Machine

/-- What presenting an entry comes to: a word or key to decode in the state the presenting left, an action completed, or an access
the framework does not deliver. -/
inductive Presented where
  | word (w : Fetched) (t : State)
  | action (t : State)
  | refused (r : Refusal)
  deriving DecidableEq, Repr

/-- R47, R65: a byte access at `o` presented to the mux: its key, if `o` is an offset of the window. The high byte of a 2-byte access
on the window's last offset is no access of its own (R42) and is not presented: it is dispatched inside the operation. -/
def presentByte (isWrite : Bool) (o : Nat) (b : Byte) (s : State) : Presented :=
  if inWindow o s then .word (.disp (buildKey isWrite o s).1 o b) (buildKey isWrite o s).2
  else .refused .outsideWindow

/-- What presenting each kind of entry comes to. -/
def present (op : HostOp) (s : State) : Presented :=
  match op with
  | .bus t => .word (.bus t) s
  | .byteRead o => presentByte false o 0 s
  | .byteWrite o b => presentByte true o b s
  | .save => .action (saveLines s)
  | .restore clk dat => .action (restoreLines clk dat s)
  | .genericReinit => .action (answer .nothing (genericReinit s))

/-- The refusal under which a word the decoder rejects is refused (R134, R69). -/
def refusalOf : DecodeError → Refusal
  | .fourByteAccess => .fourByteAccess
  | .eightByteAccess => .eightByteAccess
  | .reservedHeader => .reservedHeader
  | .unbuiltClass => .unbuiltKey
  | .classMismatch => .unbuiltKey

/-- The entry of the host's list at its position, if any (R30). -/
def pending (s : State) : Option HostOp := s.txns[s.pos]?

/-- `s` with `op` as the next entry the host presents: put in at the position, what follows kept. -/
def issueNext (op : HostOp) (s : State) : State :=
  { s with txns := s.txns.take s.pos ++ op :: s.txns.drop s.pos, pos := min s.pos s.txns.length }

/-- The byte access for which R65 builds the key `k` once the index is the key's own: a read or a write of 0, at `o`. -/
def keyAccess (k : DispKey) (o : Nat) : HostOp := if dispIsWrite k then .byteWrite o 0 else .byteRead o

/-- `s` with the byte access of a bare DISP key next; for a DATA key the controller index is the key's index, for that is what
selects it (R65). A key of class code 0b11 has no access (R64): nothing is placed. Log 19. -/
def issueKey (k : DispKey) (s : State) : State :=
  match keyClass k with
  | some .data => issueNext (keyAccess k (keyOffset .data)) { s with cidx := dispIndex k }
  | some c => issueNext (keyAccess k (keyOffset c)) s
  | none => s

end Sys2Proof.Machine
end

