-- ==== Sys2Proof/Machine/Step.lean ====
section
/-! DEFINITION. One step: the entry of the host's transaction list at its position is presented, decoded and executed whole (20_memory.md
R44, R49; 92_eei_decisions.md D1), and the position moves on (10_state.md R30). With nothing pending the block, a passive target,
keeps its state. -/

namespace Sys2Proof.Machine

/-- A word decoded and run in `t`, then the position moved on. -/
def runWord (w : Fetched) (t : State) : Host.Outcome State Fault Refusal :=
  match decode w with
  | .error e => .refused (refusalOf e)
  | .ok i =>
    match exec i t with
    | .next u => .next (advance u)
    | .fault f => .fault f
    | .refused r => .refused r

def step (s : State) : Host.Outcome State Fault Refusal :=
  match pending s with
  | none => .next s
  | some op =>
    match present op s with
    | .action t => .next (advance t)
    | .word w t => runWord w t
    | .refused r => .refused r

/-- `s` with a word of the opcode table as the next entry of the host's list: a BUS word as it stands, a DISP key as the byte access
that builds it. -/
def State.withFetchWord (s : State) (nbits w : Nat) : State :=
  if isDispWidth nbits then issueKey (BitVec.ofNat 11 w) s else issueNext (.bus (BitVec.ofNat 32 w)) s

end Sys2Proof.Machine
end

