-- ==== Sys2Proof/Machine/Assembler.lean ====
section
/-! DEFINITION. The assembler text and the pseudo-operations of 30_encoding.md R71 and R72 (the spec's own, D19). -/

namespace Sys2Proof.Machine

/-- R71: a number in hex with `0x`, in lower case and padded with zeros to the `digits` of its operand. How many digits a number has,
and their case, R71 leaves open: THE MODEL'S CHOICE, after the spec's own lines (log 27, DEDUCED). -/
def hex (digits n : Nat) : String := "0x" ++ String.ofList ((Nat.toDigits 16 n).leftpad digits '0')

/-- An offset or a byte: two digits (log 27). -/
def hexByte (b : Byte) : String := hex 2 b.toNat

/-- A 16-bit value: four digits (log 27). -/
def hexHalf (v : Half) : String := hex 4 v.toNat

/-- R71: the text of a bus transaction; the dispatch operations have none. -/
def asm : Instr → Option String
  | .rd8 off => some ("RD8 " ++ hexByte off)
  | .rd16 off => some ("RD16 " ++ hexByte off)
  | .wr8 off b => some ("WR8 " ++ hexByte off ++ ", " ++ hexByte b)
  | .wr16 off v => some ("WR16 " ++ hexByte off ++ ", " ++ hexHalf v)
  | .reset => some "RESET"
  | .scRd => none
  | .scWr _ => none
  | .dpGenRd _ => none
  | .dpGenWr _ _ => none
  | .genRd _ => none
  | .genWr _ _ => none
  | .nulRd _ => none
  | .nulWr _ _ => none

/-- R72 `SELIDX i`. -/
def selIdx (i : Byte) : List Instr := [.wr8 (BitVec.ofNat 8 indexPort) i]

/-- R72 `SETLINES c, d`: select the write index and set the lines in one access. -/
def setLinesWide (c d : Bool) : List Instr :=
  [.wr16 (BitVec.ofNat 8 indexPort) (joinBytes scWrIdx (writeView c d))]

/-- R72 `SETLINES8 c, d`. -/
def setLinesByte (c d : Bool) : List Instr := [.wr8 (BitVec.ofNat 8 dataPort) (writeView c d)]

/-- R72 `GETLINES`. -/
def getLines : List Instr := [.wr8 (BitVec.ofNat 8 indexPort) scRdIdx, .rd8 (BitVec.ofNat 8 dataPort)]

/-- The host entries that present bus instructions, in order, as their canonical BUS words (R63). -/
def assemble (is : List Instr) : List HostOp :=
  is.filterMap fun i =>
    match encode i with
    | .bus t => some (.bus t)
    | .disp _ _ _ => none

end Sys2Proof.Machine
end

