-- ==== Sys2Proof/Machine/Adapters.lean ====
section
/-! DEFINITION. Several adapters (10_state.md R29, 60_exceptions.md R159): each block has its own state, and one step of the whole is one
operation of the block it targets. -/

namespace Sys2Proof.Machine

/-- One operation of the `k`th block; the others keep their states (R29). A step of a block that is not there changes nothing. -/
def stepAdapter (k : Nat) (ss : List State) : Host.Outcome (List State) Fault Refusal :=
  match ss[k]? with
  | none => .next ss
  | some s =>
    match step s with
    | .next t => .next (ss.set k t)
    | .fault f => .fault f
    | .refused r => .refused r

end Sys2Proof.Machine
end

