-- ==== Sys2Proof/Safety.lean ====
section
/-! DEFINITION. The terms claims are made in: the machine's invariant, the events that write the lines (10_state.md R23, R24; 40_dispatcher.md
R111), the discipline of the calls into the generic subsystem (R101 to R109), and two states that differ in the lines alone. -/

namespace Sys2Proof.Machine

/-! ## Writers of the lines -/

/-- The three writers of `LS` (R24): a qualifying write, a reset, a restore. -/
inductive LineEvent where
  | written (b : Byte)
  | cleared
  | restored (clk dat : Bool)
  deriving DecidableEq, Repr

/-- The line pair (clock, data) an event leaves (R111, R28). -/
def LineEvent.lines : LineEvent → Bool × Bool
  | .written b => (writtenClk b, writtenDat b)
  | .cleared => (false, false)
  | .restored clk dat => (clk, dat)

/-- R23: the pair the most recent event gave, or the pair before them all. -/
def linesAfter (before : Bool × Bool) (es : List LineEvent) : Bool × Bool :=
  match es.getLast? with
  | none => before
  | some e => e.lines

/-- The event of a byte write of `b` at `o`, if it is a qualifying one (R15). -/
def writeEvents (o : Nat) (b : Byte) (s : State) : List LineEvent :=
  if o = dataPort ∧ s.cidx = scWrIdx then [.written b] else []

/-- The events of an instruction in `s`; a 2-byte write's second byte meets the index its first byte left (R133). -/
def instrEvents (i : Instr) (s : State) : List LineEvent :=
  match i with
  | .wr8 off b => writeEvents (muxOffset off) b s
  | .wr16 off v =>
      writeEvents (muxOffset off) (firstByte v) s ++
        writeEvents (muxOffset off + 1) (secondByte v) (dwrite (muxOffset off) (firstByte v) s)
  | .reset => [.cleared]
  | .scWr b => [.written b]
  | .rd8 _ => []
  | .rd16 _ => []
  | .scRd => []
  | .dpGenRd _ => []
  | .dpGenWr _ _ => []
  | .genRd _ => []
  | .genWr _ _ => []
  | .nulRd _ => []
  | .nulWr _ _ => []

/-- The events of the entry the host presents next. -/
def lineEvents (s : State) : List LineEvent :=
  match pending s with
  | some (.bus t) =>
    match decodeBus t with
    | .ok i => instrEvents i s
    | .error _ => []
  | some (.byteWrite o b) => writeEvents o b s
  | some (.restore clk dat) => [.restored clk dat]
  | _ => []

/-- The events of the first `n` steps from `s`, oldest first. -/
def lineHistory : Nat → State → List LineEvent
  | 0, _ => []
  | n + 1, s =>
    match step s with
    | .next t => lineEvents s ++ lineHistory n t
    | _ => []

/-! ## Calls into the generic subsystem -/

/-- Whether the block may make the call `c` right after the call `before`: the handler is passed generic offsets, and the data port
only under an index just sampled that is not the side channel's own for that direction (R104 to R107). -/
def callOk (before : Option GenericCall) (c : GenericCall) : Bool :=
  match c with
  | .index _ => true
  | .read o _ =>
    if o = dataPort then
      match before with
      | some (.index i) => i != scRdIdx
      | _ => false
    else classify o == .generic
  | .write o _ =>
    if o = dataPort then
      match before with
      | some (.index i) => i != scWrIdx
      | _ => false
    else classify o == .generic

/-- Every call of a record, in the light of the call before it. -/
def callsOk : Option GenericCall → List GenericCall → Bool
  | _, [] => true
  | before, c :: cs => callOk before c && callsOk (some c) cs

/-- Whether a call samples the controller index. -/
def isIndexCall : GenericCall → Bool
  | .index _ => true
  | .read _ _ => false
  | .write _ _ => false

/-- How often the index was sampled (R101). -/
def indexCalls (s : State) : Nat := s.calls.countP isIndexCall

/-! ## The invariant -/

/-- What every step keeps: the parameters stay within R10's bounds, the position stays within the list (R30), and the calls keep their
discipline. -/
def Inv (s : State) : Prop :=
  s.params.wf = true ∧ s.pos ≤ s.txns.length ∧ callsOk none s.calls = true

/-! ## Encoding -/

/-- The bits of a BUS word an operation looks at (R63); every other bit is reserved or ignored. -/
def careMask : Instr → BusWord
  | .rd8 _ => 0xf0ff0000
  | .rd16 _ => 0xf0ff0000
  | .wr8 _ _ => 0xf0ff00ff
  | .wr16 _ _ => 0xf0ffffff
  | .reset => 0xf0000000
  | .scRd => 0
  | .scWr _ => 0
  | .dpGenRd _ => 0
  | .dpGenWr _ _ => 0
  | .genRd _ => 0
  | .genWr _ _ => 0
  | .nulRd _ => 0
  | .nulWr _ _ => 0

/-- The window offset of a bus access; the other operations have none. -/
def accessOffset : Instr → Option Byte
  | .rd8 off => some off
  | .rd16 off => some off
  | .wr8 off _ => some off
  | .wr16 off _ => some off
  | .reset => none
  | .scRd => none
  | .scWr _ => none
  | .dpGenRd _ => none
  | .dpGenWr _ _ => none
  | .genRd _ => none
  | .genWr _ _ => none
  | .nulRd _ => none
  | .nulWr _ _ => none

/-- The width in bytes of a bus access (R43); the other operations have none. -/
def accessWidth : Instr → Option Nat
  | .rd8 _ => some 1
  | .rd16 _ => some 2
  | .wr8 _ _ => some 1
  | .wr16 _ _ => some 2
  | .reset => none
  | .scRd => none
  | .scWr _ => none
  | .dpGenRd _ => none
  | .dpGenWr _ _ => none
  | .genRd _ => none
  | .genWr _ _ => none
  | .nulRd _ => none
  | .nulWr _ _ => none

/-- Whether a bus operation is a read, and so answers a value (R135). -/
def isBusRead : Instr → Bool
  | .rd8 _ => true
  | .rd16 _ => true
  | .wr8 _ _ => false
  | .wr16 _ _ => false
  | .reset => false
  | .scRd => false
  | .scWr _ => false
  | .dpGenRd _ => false
  | .dpGenWr _ _ => false
  | .genRd _ => false
  | .genWr _ _ => false
  | .nulRd _ => false
  | .nulWr _ _ => false

/-! ## Isolation -/

/-- The two states agree in all but the lines and the last answer. -/
def SameButLines (s s' : State) : Prop :=
  s' = { s with clk := s'.clk, dat := s'.dat, ret := s'.ret }

/-- Two outcomes of one kind, with related next states or the same reason. -/
def SameOutcome (R : State → State → Prop) :
    Host.Outcome State Fault Refusal → Host.Outcome State Fault Refusal → Prop
  | .next t, .next t' => R t t'
  | .fault f, .fault f' => f = f'
  | .refused r, .refused r' => r = r'
  | _, _ => False

/-! ## Runs -/

/-- The state `k` instructions executed in order leave, if each answers a next state. -/
def execAll : List Instr → State → Host.Outcome State Fault Refusal
  | [], s => .next s
  | i :: is, s =>
    match exec i s with
    | .next t => execAll is t
    | .fault f => .fault f
    | .refused r => .refused r

end Sys2Proof.Machine
end

