-- ==== Sys2Proof/Certificates/Slice0/Obligations.lean ====
section
/-! DEFINITION. The statements for the provers, by file of the spec. A next state is written as the state before with the fields
that change: every field not named is unchanged, so each of these is its instruction's frame as well. `genericAnswer`,
`indexAfterRead`, `genAfterRead`, `indexAfterWrite` and `genAfterWrite` are the generic subsystem's free values (logs 3 and 4): no
statement rests on one. -/

open Sys2Proof Sys2Proof.Machine

/-! ## 30_encoding.md -/

/-- R73, which the spec derives from R61 to R66 (encodings of its own, D5, D6): the canonical BUS words with their assembler text, and
the DISP keys it lists. -/
def Obligations.SpecWordsDecode : Prop :=
  (asm (.rd8 0x15) = some "RD8 0x15" ∧ encode (.rd8 0x15) = .bus 0x00150000 ∧ decodeBus 0x00150000 = .ok (.rd8 0x15)) ∧
  (asm (.rd16 0x14) = some "RD16 0x14" ∧ encode (.rd16 0x14) = .bus 0x10140000 ∧ decodeBus 0x10140000 = .ok (.rd16 0x14)) ∧
  (asm (.wr8 0x14 0x3f) = some "WR8 0x14, 0x3f" ∧ encode (.wr8 0x14 0x3f) = .bus 0x4014003f ∧
    decodeBus 0x4014003f = .ok (.wr8 0x14 0x3f)) ∧
  (asm (.wr8 0x15 0x30) = some "WR8 0x15, 0x30" ∧ encode (.wr8 0x15 0x30) = .bus 0x40150030 ∧
    decodeBus 0x40150030 = .ok (.wr8 0x15 0x30)) ∧
  (asm (.wr16 0x14 0x303f) = some "WR16 0x14, 0x303f" ∧ encode (.wr16 0x14 0x303f) = .bus 0x5014303f ∧
    decodeBus 0x5014303f = .ok (.wr16 0x14 0x303f)) ∧
  (asm .reset = some "RESET" ∧ encode .reset = .bus 0x80000000 ∧ decodeBus 0x80000000 = .ok .reset) ∧
  (∀ s : State, s.cidx = 0x3f → (buildKey true 0x15 s).1 = 0x63f) ∧ (∀ b, decodeDisp 0x63f 0x15 b = .ok (.scWr b)) ∧
  (∀ s : State, s.cidx = 0x3e → (buildKey false 0x15 s).1 = 0x23e) ∧ (∀ b, decodeDisp 0x23e 0x15 b = .ok .scRd) ∧
  (∀ s : State, s.cidx = 0x3f → (buildKey false 0x15 s).1 = 0x23f) ∧ (∀ b, decodeDisp 0x23f 0x15 b = .ok (.dpGenRd 0x3f)) ∧
  (∀ s : State, (buildKey true 0x14 s).1 = 0x500) ∧ (∀ b, decodeDisp 0x500 0x14 b = .ok (.genWr 0x14 b)) ∧
  (∀ s : State, (buildKey false 0x16 s).1 = 0x000) ∧ (∀ b, decodeDisp 0x000 0x16 b = .ok (.nulRd 0x16))

/-- R62, R63, R66: decoding the canonical encoding of any well-formed operation gives it back, every operand at every value. -/
def Obligations.DecodeEncodeRoundTrip : Prop :=
  ∀ i : Instr, i.wf = true → decode (encode i) = .ok i

/-- R62: the BUS opcode map on the header nibble, for every word, with the operands of R63. -/
def Obligations.BusDecodeFollowsOpcodeMap : Prop :=
  ∀ t : BusWord, decodeBus t =
    if busHeader t = 0x0 then .ok (.rd8 (t.extractLsb' 16 8))
    else if busHeader t = 0x1 then .ok (.rd16 (t.extractLsb' 16 8))
    else if busHeader t = 0x4 then .ok (.wr8 (t.extractLsb' 16 8) (t.extractLsb' 0 8))
    else if busHeader t = 0x5 then .ok (.wr16 (t.extractLsb' 16 8) (t.extractLsb' 0 16))
    else if busHeader t = 0x8 then .ok .reset
    else if busHeader t = 0x2 ∨ busHeader t = 0x6 then .error .fourByteAccess
    else if busHeader t = 0x3 ∨ busHeader t = 0x7 then .error .eightByteAccess
    else .error .reservedHeader

/-- R63: the decoder ignores the reserved and ignored bits, and the canonical encoding of what it reads has 0 in each of them and the
word's own value in every other bit. -/
def Obligations.BusReencodeIsCanonical : Prop :=
  ∀ (t : BusWord) (i : Instr), decodeBus t = .ok i →
    encode i = .bus (t &&& careMask i) ∧ decodeBus (t &&& careMask i) = .ok i

/-- R66: the DISP match table on every key, in priority order. The rows' choice by the key is R66's; the two rejections are THE MODEL'S OWN
CHOICE (log 25, DEDUCED): R66 selects by the key alone, and R64 and R65 only say that a key of class code 0b11, or of a class that is
not its offset's, is never built. -/
def Obligations.DispDecodeFollowsMatchTable : Prop :=
  ∀ (k : DispKey) (o : Nat) (b : Byte), decodeDisp k o b =
    if k = 0x23e then (if classify o = .data then .ok .scRd else .error .classMismatch)
    else if k = 0x63f then (if classify o = .data then .ok (.scWr b) else .error .classMismatch)
    else if k &&& 0x700 = 0x200 then
      (if classify o = .data then .ok (.dpGenRd (k.extractLsb' 0 8)) else .error .classMismatch)
    else if k &&& 0x700 = 0x600 then
      (if classify o = .data then .ok (.dpGenWr (k.extractLsb' 0 8) b) else .error .classMismatch)
    else if k &&& 0x700 = 0x100 then (if classify o = .generic then .ok (.genRd o) else .error .classMismatch)
    else if k &&& 0x700 = 0x500 then (if classify o = .generic then .ok (.genWr o b) else .error .classMismatch)
    else if k &&& 0x700 = 0x000 then (if classify o = .null then .ok (.nulRd o) else .error .classMismatch)
    else if k &&& 0x700 = 0x400 then (if classify o = .null then .ok (.nulWr o b) else .error .classMismatch)
    else .error .unbuiltClass

/-- R64: the offset classes and their codes. -/
def Obligations.RegionDecode : Prop :=
  (∀ o : Nat, classify o = .generic ↔
    o ∈ [0x00, 0x01, 0x02, 0x03, 0x04, 0x05, 0x06, 0x07, 0x08, 0x09, 0x0a, 0x0c, 0x0e, 0x0f, 0x14, 0x1a]) ∧
  (∀ o : Nat, classify o = .data ↔ o = 0x15) ∧
  (∀ o : Nat, classify o = .null ↔
    o ∉ [0x00, 0x01, 0x02, 0x03, 0x04, 0x05, 0x06, 0x07, 0x08, 0x09, 0x0a, 0x0c, 0x0e, 0x0f, 0x14, 0x1a] ∧ o ≠ 0x15) ∧
  classCode .generic = 0b01 ∧ classCode .data = 0b10 ∧ classCode .null = 0b00 ∧ (∀ c, classCode c ≠ 0b11)

/-- Whatever is decoded has its row's operand conditions (R104 to R109). Over all keys and offsets this rests on THE MODEL'S OWN CHOICE
(log 25, DEDUCED) to reject a key whose class is not its offset's: R66 selects by the key alone, so it does not give this by itself, and R64
and R65 only say that such a key is never built. -/
def Obligations.DecodedIsWellFormed : Prop :=
  ∀ (w : Fetched) (i : Instr), decode w = .ok i → i.wf = true

/-- R67, R68: the two byte layouts of the lines. -/
def Obligations.LineViews : Prop :=
  (∀ b : Byte, writtenClk b = b.getLsbD 5 ∧ writtenDat b = b.getLsbD 4) ∧
  (∀ (c d : Bool) (k : Nat), (readView c d).getLsbD k = if k = 3 then d else if k = 2 then c else false) ∧
  (∀ c d : Bool, readView c d = 0x00 ∨ readView c d = 0x04 ∨ readView c d = 0x08 ∨ readView c d = 0x0c) ∧
  (∀ c d : Bool, writtenClk (writeView c d) = c ∧ writtenDat (writeView c d) = d)

/-! ## 40_dispatcher.md -/

/-- R65, R66, R100: for every byte access the key it builds is decoded to the operation R100's procedure names, so no key is
illegal. -/
def Obligations.BuiltKeysDecode : Prop :=
  ∀ (o : Nat) (b : Byte) (s : State),
    decode (.disp (buildKey false o s).1 o b) =
      .ok (if o = 0x15 then (if s.cidx = 0x3e then .scRd else .dpGenRd s.cidx)
        else if o ∈ genericSet then .genRd o else .nulRd o) ∧
    decode (.disp (buildKey true o s).1 o b) =
      .ok (if o = 0x15 then (if s.cidx = 0x3f then .scWr b else .dpGenWr s.cidx b)
        else if o ∈ genericSet then .genWr o b else .nulWr o b)

/-- R100: the mux's byte read and byte write are exactly the operation the match table selects for the key they build. -/
def Obligations.MuxRunsTheSelectedOperation : Prop :=
  ∀ (o : Nat) (b : Byte) (s : State),
    (∃ i, decode (.disp (buildKey false o s).1 o 0) = .ok i ∧
      exec i (buildKey false o s).2 = .next (answer (.byte (dread o s).1) (dread o s).2)) ∧
    (∃ i, decode (.disp (buildKey true o s).1 o b) = .ok i ∧
      exec i (buildKey true o s).2 = .next (answer .nothing (dwrite o b s)))

/-- R101: the index is sampled exactly once per byte access at the data port and never at another offset, and its answer is the index
the generic subsystem holds, as the record of calls shows (the model's own field, log 9). -/
def Obligations.IndexSampledOnlyAtDataPort : Prop :=
  ∀ (o : Nat) (b : Byte) (s : State),
    indexCalls (dread o s).2 = indexCalls s + (if o = 0x15 then 1 else 0) ∧
    indexCalls (dwrite o b s) = indexCalls s + (if o = 0x15 then 1 else 0) ∧
    (o = 0x15 → ∃ rest rest', (dread o s).2.calls = s.calls ++ .index s.cidx :: rest ∧
      (dwrite o b s).calls = s.calls ++ .index s.cidx :: rest')

/-- R102, SC_RD: key, value, state written, corner cases and example. -/
def Obligations.ScRdReadsTheLines : Prop :=
  (∀ b, decodeDisp 0x23e 0x15 b = .ok .scRd) ∧
  (∀ s : State, exec .scRd s = .next { s with ret := .byte (readView s.clk s.dat) }) ∧
  (∀ (s : State) (k : Nat), (readView s.clk s.dat).getLsbD k = if k = 3 then s.dat else if k = 2 then s.clk else false) ∧
  (∀ s : State, readView s.clk s.dat ∈ [0x00, 0x04, 0x08, 0x0c]) ∧
  (∀ s : State, ∃ t, exec .reset s = .next t ∧ exec .scRd t = .next { t with ret := .byte 0x00 }) ∧
  (∀ s : State, ∃ t, exec .scRd s = .next t ∧ exec .scRd t = .next t) ∧
  (∀ s : State, s.clk = true → s.dat = true → exec .scRd s = .next { s with ret := .byte 0x0c })

/-- R103, SC_WR: key, both lines from bits 5 and 4, nothing else written, corner cases and example. -/
def Obligations.ScWrWritesBothLines : Prop :=
  (∀ b, decodeDisp 0x63f 0x15 b = .ok (.scWr b)) ∧
  (∀ (b : Byte) (s : State),
    exec (.scWr b) s = .next { s with clk := b.getLsbD 5, dat := b.getLsbD 4, ret := .nothing }) ∧
  (∀ (b b' : Byte) (s : State), b &&& 0x30 = b' &&& 0x30 → exec (.scWr b) s = exec (.scWr b') s) ∧
  (∀ s : State, exec (.scWr 0xff) s = .next { s with clk := true, dat := true, ret := .nothing } ∧
    exec (.scWr 0xcf) s = .next { s with clk := false, dat := false, ret := .nothing }) ∧
  (∀ s : State, exec (.scWr (writeView s.clk s.dat)) s = .next { s with ret := .nothing }) ∧
  (∀ s : State, s.cidx = 0x3f →
    (dwrite 0x15 0x30 s).clk = true ∧ (dwrite 0x15 0x30 s).dat = true)

/-- R104, DP_GEN_RD. The handler's answer and the state it leaves are free values (log 3). -/
def Obligations.DpGenRdReadsGeneric : Prop :=
  (∀ i b : Byte, i ≠ 0x3e → decodeDisp (0x200 ||| i.setWidth 11) 0x15 b = .ok (.dpGenRd i)) ∧
  (∀ (i : Byte) (s : State), exec (.dpGenRd i) s = .next { s with
    ret := .byte (genericAnswer 0x15 s), cidx := indexAfterRead 0x15 s, gen := genAfterRead 0x15 s, draws := s.draws + 1,
    calls := s.calls ++ [.read 0x15 (genericAnswer 0x15 s)] }) ∧
  (∀ s : State, s.cidx = 0x00 → (dread 0x15 s).1 = genericAnswer 0x15 s)

/-- R105, DP_GEN_WR. -/
def Obligations.DpGenWrWritesGeneric : Prop :=
  (∀ i b : Byte, i ≠ 0x3f → decodeDisp (0x600 ||| i.setWidth 11) 0x15 b = .ok (.dpGenWr i b)) ∧
  (∀ (i b : Byte) (s : State), exec (.dpGenWr i b) s = .next { s with
    ret := .nothing, cidx := indexAfterWrite 0x15 b s, gen := genAfterWrite 0x15 b s, draws := s.draws + 1,
    calls := s.calls ++ [.write 0x15 b] }) ∧
  (∀ s : State, s.cidx = 0x00 →
    (dwrite 0x15 0x30 s).calls = s.calls ++ [.index 0x00, .write 0x15 0x30] ∧
    (dwrite 0x15 0x30 s).clk = s.clk ∧ (dwrite 0x15 0x30 s).dat = s.dat)

/-- R106, GEN_RD. -/
def Obligations.GenRdReadsGeneric : Prop :=
  (∀ (o : Nat) (b : Byte), o ∈ genericSet → decodeDisp 0x100 o b = .ok (.genRd o)) ∧
  (∀ (o : Nat) (s : State), exec (.genRd o) s = .next { s with
    ret := .byte (genericAnswer o s), cidx := indexAfterRead o s, gen := genAfterRead o s, draws := s.draws + 1,
    calls := s.calls ++ [.read o (genericAnswer o s)] }) ∧
  (∀ s : State, (dread 0x0c s).1 = genericAnswer 0x0c s ∧ (dread 0x14 s).1 = genericAnswer 0x14 s)

/-- R107, GEN_WR. Selecting an index changes no line by itself. -/
def Obligations.GenWrWritesGeneric : Prop :=
  (∀ (o : Nat) (b : Byte), o ∈ genericSet → decodeDisp 0x500 o b = .ok (.genWr o b)) ∧
  (∀ (o : Nat) (b : Byte) (s : State), exec (.genWr o b) s = .next { s with
    ret := .nothing, cidx := indexAfterWrite o b s, gen := genAfterWrite o b s, draws := s.draws + 1,
    calls := s.calls ++ [.write o b] }) ∧
  (∀ s : State, s.params.env = .reference → (dwrite 0x14 0x3f s).cidx = 0x3f)

/-- R108, NUL_RD. -/
def Obligations.NulRdAnswersZero : Prop :=
  (∀ (o : Nat) (b : Byte), classify o = .null → decodeDisp 0x000 o b = .ok (.nulRd o)) ∧
  (∀ (o : Nat) (s : State), exec (.nulRd o) s = .next { s with ret := .byte 0x00 }) ∧
  (∀ (o : Nat) (s : State), classify o = .null → dread o s = (0x00, s)) ∧
  (∀ s : State, dread 0x16 s = (0x00, s)) ∧
  (∀ s : State, s.params.wf = true → dread s.params.winSize s = (0x00, s))

/-- R109, NUL_WR. -/
def Obligations.NulWrIsDropped : Prop :=
  (∀ (o : Nat) (b : Byte), classify o = .null → decodeDisp 0x400 o b = .ok (.nulWr o b)) ∧
  (∀ (o : Nat) (b : Byte) (s : State), exec (.nulWr o b) s = .next { s with ret := .nothing }) ∧
  (∀ (o : Nat) (b : Byte) (s : State), classify o = .null → dwrite o b s = s) ∧
  (∀ (b : Byte) (s : State), dwrite 0x16 b s = s ∧ dwrite 0x10 0x30 s = s)

/-- R110, the round-trip law the spec derives from R102 and R103, with any steps in between that hold no writer of the lines. -/
def Obligations.LinesRoundTrip : Prop :=
  ∀ (n : Nat) (c d : Bool) (s t : State), s.cidx = 0x3f →
    Host.Core.run core n (dwrite 0x15 (writeView c d) s) = .next t →
    lineHistory n (dwrite 0x15 (writeView c d) s) = [] → t.cidx = 0x3e →
      (dread 0x15 t).1 = readView c d ∧
      ∀ k : Nat, (dread 0x15 t).1.getLsbD k = if k = 3 then d else if k = 2 then c else false

/-- R23: after any number of steps the lines are those of the most recent writer among them, or those before if there was none; and
so, from construction with any list of transactions, 0 if there was none. -/
def Obligations.LinesHoldTheLastWrite : Prop :=
  (∀ (n : Nat) (s t : State), Host.Core.run core n s = .next t →
    (t.clk, t.dat) = linesAfter (s.clk, s.dat) (lineHistory n s)) ∧
  (∀ (n : Nat) (ops : List HostOp) (t : State), Host.Core.run core n { State.reset with txns := ops } = .next t →
    (t.clk, t.dat) = linesAfter (false, false) (lineHistory n { State.reset with txns := ops }))

/-- R24: what a step that changed a line was: a reset, a restore, or a byte write at the data port under the index 0x3f, alone or as a
byte of a bus write. -/
def Obligations.OnlyWritersChangeLines : Prop :=
  ∀ s t : State, step s = .next t → (t.clk ≠ s.clk ∨ t.dat ≠ s.dat) →
    (∃ w, pending s = some (.bus w) ∧ decodeBus w = .ok .reset) ∨
    (∃ c d, pending s = some (.restore c d)) ∨
    (∃ b, pending s = some (.byteWrite 0x15 b) ∧ s.cidx = 0x3f) ∨
    (∃ w b, pending s = some (.bus w) ∧ decodeBus w = .ok (.wr8 0x15 b) ∧ s.cidx = 0x3f) ∨
    (∃ w v, pending s = some (.bus w) ∧ decodeBus w = .ok (.wr16 0x15 v) ∧ s.cidx = 0x3f) ∨
    (∃ w v, pending s = some (.bus w) ∧ decodeBus w = .ok (.wr16 0x14 v) ∧
      (dwrite 0x14 (lowByte v) s).cidx = 0x3f)

/-! ## 41_shim.md and 20_memory.md -/

/-- R130, RD8: in the window it completes with the byte the mux returns, zero-extended to the bus word. -/
def Obligations.Rd8ReturnsTheByte : Prop :=
  (∀ off : Byte, encode (.rd8 off) = .bus (off.setWidth 32 <<< 16)) ∧
  (∀ (off : Byte) (s : State), off.toNat < s.params.winSize →
    exec (.rd8 off) s = .next { (dread off.toNat s).2 with ret := .byte (dread off.toNat s).1 }) ∧
  (∀ (n : Nat) (b : Byte), busResult n (.byte b) = some (b.setWidth n)) ∧
  (∀ (off : Byte) (s : State), classify off.toNat = .null → off.toNat < s.params.winSize →
    exec (.rd8 off) s = .next { s with ret := .byte 0x00 }) ∧
  (∀ s : State, 0x15 < s.params.winSize → s.clk = true → s.dat = false → s.cidx = 0x3e →
    exec (.rd8 0x15) s = .next { s with ret := .byte 0x04, calls := s.calls ++ [.index 0x3e] })

/-- R131, RD16: the low byte is read first (the spec's decision D9, log 12), the high byte against the state it left. -/
def Obligations.Rd16ReadsLowThenHigh : Prop :=
  (∀ off : Byte, encode (.rd16 off) = .bus (0x10000000 ||| off.setWidth 32 <<< 16)) ∧
  (∀ (off : Byte) (s : State), off.toNat < s.params.winSize →
    exec (.rd16 off) s = .next { (dread (off.toNat + 1) (dread off.toNat s).2).2 with
      ret := .half ((dread (off.toNat + 1) (dread off.toNat s).2).1 ++ (dread off.toNat s).1) }) ∧
  (∀ (n : Nat) (v : Half), busResult n (.half v) = some (v.setWidth n)) ∧
  (∀ s : State, 0x15 < s.params.winSize → s.clk = true → s.dat = true → s.cidx = 0x3e →
    exec (.rd16 0x15) s = .next { s with ret := .half 0x000c, calls := s.calls ++ [.index 0x3e] })

/-- R132, WR8: in the window it completes as the mux's byte write; bits of the bus value above 7 are ignored. -/
def Obligations.Wr8WritesTheLowByte : Prop :=
  (∀ off b : Byte, encode (.wr8 off b) = .bus (0x40000000 ||| off.setWidth 32 <<< 16 ||| b.setWidth 32)) ∧
  (∀ (off b : Byte) (s : State), off.toNat < s.params.winSize →
    exec (.wr8 off b) s = .next { dwrite off.toNat b s with ret := .nothing }) ∧
  (∀ (n : Nat) (off : Byte) (v : BitVec n) (s : State),
    memWrite8 off v s = { dwrite off.toNat (v.extractLsb' 0 8) s with ret := .nothing }) ∧
  (∀ s : State, memWrite8 0x15 (0x130 : BitVec 16) s = memWrite8 0x15 (0x30 : Byte) s) ∧
  (∀ s : State, 0x15 < s.params.winSize → s.cidx = 0x3f → exec (.wr8 0x15 0x20) s =
    .next { s with clk := true, dat := false, ret := .nothing, calls := s.calls ++ [.index 0x3f] })

/-- R133, WR16: the low byte first, then the high byte dispatched against the state the first left. -/
def Obligations.Wr16WritesLowThenHigh : Prop :=
  (∀ (off : Byte) (v : Half), encode (.wr16 off v) = .bus (0x50000000 ||| off.setWidth 32 <<< 16 ||| v.setWidth 32)) ∧
  (∀ (off : Byte) (v : Half) (s : State), off.toNat < s.params.winSize →
    exec (.wr16 off v) s = .next { dwrite (off.toNat + 1) (v.extractLsb' 8 8) (dwrite off.toNat (v.extractLsb' 0 8) s) with
      ret := .nothing }) ∧
  (∀ (n : Nat) (off : Byte) (v : BitVec n) (s : State), memWrite16 off v s = memWrite16 off (v.setWidth 16) s) ∧
  (∀ (v : Half) (s : State), 0x15 < s.params.winSize → ∃ t,
    exec (.wr8 0x14 (v.extractLsb' 0 8)) s = .next t ∧
    exec (.wr8 0x15 (v.extractLsb' 8 8)) t = exec (.wr16 0x14 v) s) ∧
  (∀ (v : Half) (s : State), exec (.wr16 0x15 v) s = exec (.wr8 0x15 (v.extractLsb' 0 8)) s) ∧
  (∀ (v : Half) (s : State), 0x14 < s.params.winSize →
    exec (.wr16 0x13 v) s = exec (.wr8 0x14 (v.extractLsb' 8 8)) s)

/-- R41: a 2-byte access is its two 1-byte accesses back to back, and a 2-byte read returns the two bytes they return, composed
little-endian. The high byte of an access on the window's last offset is the statement LastOffsetHighByteIsNull. -/
def Obligations.WideAccessIsTwoByteAccesses : Prop :=
  ∀ (off : Byte) (v : Half) (s : State), s.params.wf = true → off.toNat + 1 < s.params.winSize →
    (∃ t, exec (.wr8 off (v.extractLsb' 0 8)) s = .next t ∧
      exec (.wr8 (off + 1) (v.extractLsb' 8 8)) t = exec (.wr16 off v) s) ∧
    (∃ (t u : State) (lo hi : Byte), exec (.rd8 off) s = .next t ∧ t.ret = .byte lo ∧
      exec (.rd8 (off + 1)) t = .next u ∧ u.ret = .byte hi ∧
      exec (.rd16 off) s = .next { u with ret := .half (hi ++ lo) })

/-- R42: a 2-byte access on the window's last offset has a null high byte. -/
def Obligations.LastOffsetHighByteIsNull : Prop :=
  ∀ (off : Byte) (v : Half) (s : State), s.params.wf = true → off.toNat + 1 = s.params.winSize →
    exec (.wr16 off v) s = exec (.wr8 off (v.extractLsb' 0 8)) s ∧
    ∃ (t : State) (lo : Byte), exec (.rd8 off) s = .next t ∧ t.ret = .byte lo ∧
      exec (.rd16 off) s = .next { t with ret := .half ((0x00 : Byte) ++ lo) }

/-- R40: the byte at `off` is bits 7:0 and the byte at `off + 1` bits 15:8, for reads and for writes. R40 gives no order of the two
reads: that the high byte is the one read in the state the low byte's read left is the spec's own decision D9, rule R131 (log 12,
DEDUCED). -/
def Obligations.LittleEndian : Prop :=
  ∀ (off : Byte) (v : Half) (s : State), off.toNat < s.params.winSize →
    (∃ (t : State) (r : Half), exec (.rd16 off) s = .next t ∧ t.ret = .half r ∧
      r.extractLsb' 0 8 = (dread off.toNat s).1 ∧
      r.extractLsb' 8 8 = (dread (off.toNat + 1) (dread off.toNat s).2).1) ∧
    (exec (.wr16 off v) s = .next (answer .nothing
      (dwrite (off.toNat + 1) (v.extractLsb' 8 8) (dwrite off.toNat (v.extractLsb' 0 8) s))))

/-- R46, with the spec's decision D4 (log 7): the bus word of a read has 0 in every bit above the access width, whatever `BUS_BITS`; a write ignores the bits of its value
above the access width. -/
def Obligations.BusWordAboveTheWidth : Prop :=
  (∀ (n : Nat) (b : Byte), 16 ≤ n → ∃ w : BitVec n, busResult n (.byte b) = some w ∧
    ∀ k, w.getLsbD k = (decide (k < 8) && b.getLsbD k)) ∧
  (∀ (n : Nat) (v : Half), 16 ≤ n → ∃ w : BitVec n, busResult n (.half v) = some w ∧
    ∀ k, w.getLsbD k = (decide (k < 16) && v.getLsbD k)) ∧
  (∀ (n : Nat) (off : Byte) (v : BitVec n) (s : State), memWrite8 off v s = memWrite8 off (v.setWidth 8) s) ∧
  (∀ (n : Nat) (off : Byte) (v : BitVec n) (s : State), memWrite16 off v s = memWrite16 off (v.setWidth 16) s)

/-- R47, D3 (log 11, a refusal of the model): an access at or past `WIN_SIZE` is refused, whichever it is: a bus access, or a byte
access presented to the mux (log 2). -/
def Obligations.OutsideWindowIsRefused : Prop :=
  (∀ (off b : Byte) (v : Half) (s : State), s.params.winSize ≤ off.toNat →
    exec (.rd8 off) s = .refused .outsideWindow ∧ exec (.rd16 off) s = .refused .outsideWindow ∧
    exec (.wr8 off b) s = .refused .outsideWindow ∧ exec (.wr16 off v) s = .refused .outsideWindow) ∧
  (∀ (o : Nat) (b : Byte) (s : State), s.params.winSize ≤ o →
    pending s = some (.byteRead o) ∨ pending s = some (.byteWrite o b) → step s = .refused .outsideWindow)

/-- R100, R135 (a byte access as a step of its own is D1's, log 2): a byte access presented to the mux in the window completes as the
mux's byte read or byte write. -/
def Obligations.ByteAccessCompletes : Prop :=
  (∀ (o : Nat) (s : State), pending s = some (.byteRead o) → o < s.params.winSize →
    step s = .next { (dread o s).2 with ret := .byte (dread o s).1, pos := s.pos + 1 }) ∧
  (∀ (o : Nat) (b : Byte) (s : State), pending s = some (.byteWrite o b) → o < s.params.winSize →
    step s = .next { dwrite o b s with ret := .nothing, pos := s.pos + 1 })

/-- R43, R134 (the refusal is the model's, log 10): the block handles widths 1 and 2 of the valid widths 1, 2 and 4. A BUS word of a width
it does not handle is refused, the 4-byte one apart from the others; one of a width it handles decodes to an access of that width. -/
def Obligations.AccessWidths : Prop :=
  (∀ n, n ∈ implementableWidths ↔ n = 1 ∨ n = 2) ∧ (∀ n, n ∈ validWidths ↔ n = 1 ∨ n = 2 ∨ n = 4) ∧
  (∀ (w : BusWord) (n : Nat), headerWidth (busHeader w) = some n → n ∉ implementableWidths →
    ∀ s : State, pending s = some (.bus w) →
      step s = .refused (if n ∈ validWidths then .fourByteAccess else .eightByteAccess)) ∧
  (∀ (w : BusWord) (n : Nat), headerWidth (busHeader w) = some n → n ∈ implementableWidths →
    ∃ i, decodeBus w = .ok i ∧ accessWidth i = some n)

/-- R134, D8 (log 10, a refusal of the model): a BUS word whose header is no operation's is refused, under the name of what it is. -/
def Obligations.UnacceptedHeadersAreRefused : Prop :=
  ∀ (s : State) (w : BusWord), pending s = some (.bus w) →
    ((busHeader w = 0x2 ∨ busHeader w = 0x6) → step s = .refused .fourByteAccess) ∧
    ((busHeader w = 0x3 ∨ busHeader w = 0x7) → step s = .refused .eightByteAccess) ∧
    ((0x9 ≤ busHeader w) → step s = .refused .reservedHeader)

/-- R135: every accepted access completes, and answers a value if it reads and nothing if it writes. -/
def Obligations.AcceptedAccessCompletes : Prop :=
  ∀ (s : State) (w : BusWord) (i : Instr) (off : Byte), pending s = some (.bus w) → decodeBus w = .ok i →
    accessOffset i = some off → off.toNat < s.params.winSize →
    ∃ t, step s = .next t ∧ t.pos = s.pos + 1 ∧
      (isBusRead i = true → ∃ r, busResult s.params.busBits t.ret = some r) ∧
      (isBusRead i = false → t.ret = .nothing)

/-- R45: reads at null offsets and qualifying reads return the same again and change nothing but the record of the index call; a
qualifying write done twice leaves the lines as once. -/
def Obligations.SideEffectsOfByteAccesses : Prop :=
  (∀ (o : Nat) (s : State), classify o = .null →
    (dread o s).2 = s ∧ (dread o (dread o s).2).1 = (dread o s).1) ∧
  (∀ s : State, s.cidx = 0x3e → (dread 0x15 s).2 = { s with calls := s.calls ++ [.index 0x3e] } ∧
    (dread 0x15 (dread 0x15 s).2).1 = (dread 0x15 s).1) ∧
  (∀ (o : Nat) (s : State), (dread o s).2.clk = s.clk ∧ (dread o s).2.dat = s.dat) ∧
  (∀ (b : Byte) (s : State), s.cidx = 0x3f →
    (dwrite 0x15 b (dwrite 0x15 b s)).clk = (dwrite 0x15 b s).clk ∧
    (dwrite 0x15 b (dwrite 0x15 b s)).dat = (dwrite 0x15 b s).dat)

/-! ## 10_state.md -/

/-- R24: no read changes the lines, in any state. -/
def Obligations.ReadsKeepTheLines : Prop :=
  ∀ (off i : Byte) (o : Nat) (s t : State),
    (exec (.rd8 off) s = .next t ∨ exec (.rd16 off) s = .next t ∨ exec .scRd s = .next t ∨
      exec (.dpGenRd i) s = .next t ∨ exec (.genRd o) s = .next t ∨ exec (.nulRd o) s = .next t) →
    t.clk = s.clk ∧ t.dat = s.dat

/-- What no instruction changes outside the lines, the generic subsystem's state and the answer: the parameters, the host's list and its
position are unchanged, the calls made before stay on record and no free value is taken back. All of these are fields the model holds by
its OWN CHOICE (DESIGN CHOICE): the list and the position log 1 (R30 and D14 give them to the host's model), the count of free values log 3,
the parameters of R10 logs 4, 6 and 7, the record of calls log 9. Of the lines it says nothing: ReadsKeepTheLines and OnlyWritersChangeLines
do. -/
def Obligations.InstructionFrame : Prop :=
  ∀ (i : Instr) (s t : State), exec i s = .next t →
    t.params = s.params ∧ t.txns = s.txns ∧ t.pos = s.pos ∧ s.draws ≤ t.draws ∧ ∃ cs, t.calls = s.calls ++ cs

/-- R28, D18: a save yields the two lines; a restore sets both to any pair; neither touches anything else. -/
def Obligations.SaveAndRestore : Prop :=
  (∀ s : State, pending s = some .save →
    step s = .next { s with ret := .lines s.clk s.dat, pos := s.pos + 1 }) ∧
  (∀ (s : State) (c d : Bool), pending s = some (.restore c d) →
    step s = .next { s with clk := c, dat := d, ret := .nothing, pos := s.pos + 1 })

/-- R29: an operation of one adapter leaves every other adapter's state as it was, and depends on its own alone. -/
def Obligations.AdaptersAreIndependent : Prop :=
  ∀ (k : Nat) (ss us : List State), stepAdapter k ss = .next us →
    us.length = ss.length ∧ (∀ j, j ≠ k → us[j]? = ss[j]?) ∧
    (∀ s, ss[k]? = some s → ∃ t, step s = .next t ∧ us[k]? = some t)

/-- D13 (the spec's own choice, logs 3, 5 and 17): when the generic subsystem is reset or reloaded its index is any byte, the rest of its
state is its own, and the lines keep their values. -/
def Obligations.GenericReinitLeavesTheLines : Prop :=
  ∀ s : State, pending s = some .genericReinit →
    step s = .next { s with
      cidx := (Config.genericReinit (generic s) s.draws).index, gen := (Config.genericReinit (generic s) s.draws).other,
      draws := s.draws + 1, ret := .nothing, pos := s.pos + 1 }

/-! ## 60_exceptions.md -/

/-- R150, R151: no step ends in a fault, and the only steps refused are bus words of no operation and accesses outside the window, on
the bus or presented to the mux. -/
def Obligations.OnlyBoundaryRefusals : Prop :=
  (∀ (s : State) (f : Fault), step s ≠ .fault f) ∧
  (∀ (s : State) (r : Refusal), step s = .refused r →
    (∃ w, pending s = some (.bus w) ∧
      ((∃ e, decodeBus w = .error e ∧ r = refusalOf e ∧ busHeader w ∉ [0x0, 0x1, 0x4, 0x5, 0x8]) ∨
       (∃ i off, decodeBus w = .ok i ∧ accessOffset i = some off ∧ s.params.winSize ≤ off.toNat ∧ r = .outsideWindow))) ∨
    (∃ o b, (pending s = some (.byteRead o) ∨ pending s = some (.byteWrite o b)) ∧ s.params.winSize ≤ o ∧ r = .outsideWindow))

/-! ## 70_reset_and_hazards.md -/

/-- R171: construction leaves both lines 0, the state a reset gives. -/
def Obligations.ConstructionClearsLines : Prop :=
  State.reset.clk = false ∧ State.reset.dat = false ∧
  ∀ s : State, ∃ t, exec .reset s = .next t ∧ t.clk = State.reset.clk ∧ t.dat = State.reset.dat

/-- R170, R172: RESET clears both lines from any state, calls no collaborator, leaves the index, and is idempotent. -/
def Obligations.ResetClearsLinesAlone : Prop :=
  encode .reset = .bus 0x80000000 ∧
  (∀ s : State, exec .reset s = .next { s with clk := false, dat := false, ret := .nothing }) ∧
  (∀ s : State, ∃ t, exec .reset s = .next t ∧ exec .reset t = .next t) ∧
  (∀ s : State, s.params.env = .reference → 0x15 < s.params.winSize →
    ∃ t, execAll [.wr16 0x14 0x303f] s = .next t ∧ t.clk = true ∧ t.dat = true ∧
    ∃ u, execAll [.reset, .wr8 0x14 0x3e, .rd8 0x15] t = .next u ∧ u.ret = .byte 0x00)

/-- R175, E4: in the reference environment (log 4) one 2-byte write at the index register selects the write index and sets the lines, and the
generic handler sees the index byte alone. -/
def Obligations.SelectAndWriteInOneAccess : Prop :=
  ∀ (e : Byte) (s : State), s.params.env = .reference → 0x14 < s.params.winSize →
    exec (.wr16 0x14 (e ++ (0x3f : Byte))) s = .next { s with
      cidx := 0x3f, gen := genAfterWrite 0x14 0x3f s, clk := e.getLsbD 5, dat := e.getLsbD 4, ret := .nothing,
      draws := s.draws + 1, calls := s.calls ++ [.write 0x14 0x3f, .index 0x3f] }

/-- R177: under the index 0x3f every byte write at the data port sets the lines and calls no handler; under 0x3e every byte read there
returns the lines and calls none. -/
def Obligations.SharedIndexHazard : Prop :=
  (∀ (b : Byte) (s : State), s.cidx = 0x3f → dwrite 0x15 b s =
    { s with clk := b.getLsbD 5, dat := b.getLsbD 4, calls := s.calls ++ [.index 0x3f] }) ∧
  (∀ s : State, s.cidx = 0x3e →
    dread 0x15 s = (readView s.clk s.dat, { s with calls := s.calls ++ [.index 0x3e] }))

/-- R178, in the reference environment: a 2-byte access at 0x15 and a 2-byte read at 0x14 leave the index, and the read at 0x14 reads the
data port under the index in force before it. -/
def Obligations.WideAccessPlacement : Prop :=
  (∀ (v : Half) (s t : State), s.params.env = .reference →
    (exec (.wr16 0x15 v) s = .next t ∨ exec (.rd16 0x15) s = .next t ∨ exec (.rd16 0x14) s = .next t) →
    t.cidx = s.cidx) ∧
  (∀ s : State, s.params.env = .reference → 0x14 < s.params.winSize → s.cidx = 0x3e →
    ∃ (t : State) (g : Byte), exec (.rd16 0x14) s = .next t ∧ t.ret = .half (readView s.clk s.dat ++ g))

/-- R72: what the pseudo-operations (the spec's own, D19) do in the reference environment (log 4). -/
def Obligations.PseudoOperations : Prop :=
  ∀ s : State, s.params.env = .reference → 0x15 < s.params.winSize →
    (∀ i, ∃ t, execAll (selIdx i) s = .next t ∧ t.cidx = i ∧ t.clk = s.clk ∧ t.dat = s.dat) ∧
    (∀ c d, ∃ t, execAll (setLinesWide c d) s = .next t ∧ t.cidx = 0x3f ∧ t.clk = c ∧ t.dat = d) ∧
    (∀ c d, s.cidx = 0x3f → ∃ t, execAll (setLinesByte c d) s = .next t ∧ t.cidx = 0x3f ∧ t.clk = c ∧ t.dat = d) ∧
    (∃ t, execAll getLines s = .next t ∧ t.ret = .byte (readView s.clk s.dat) ∧ t.cidx = 0x3e)

/-! ## The machine -/

/-- R49: a step runs the decoded instruction whole in the state its presenting left, and moves the host's position past it. -/
def Obligations.StepRunsTheDecoded : Prop :=
  ∀ (s t : State) (op : HostOp) (w : Fetched) (i : Instr),
    pending s = some op → present op s = .word w t → decode w = .ok i →
    step s = match exec i t with
      | .next u => .next { u with pos := u.pos + 1 }
      | .fault f => .fault f
      | .refused r => .refused r

/-- R30 (log 18, the model's choice): with nothing pending the block keeps its state. -/
def Obligations.IdleKeepsTheState : Prop :=
  ∀ s : State, s.txns.length ≤ s.pos → step s = .next s

/-- Every step keeps the invariant: the parameters in R10's bounds (fields by logs 6 and 7), the position within the host's list (log 1), and
the discipline of the calls into the generic subsystem (R101 to R109) in the model's own record of them (log 9). -/
def Obligations.StepKeepsInvariant : Prop :=
  ∀ s t : State, Inv s → step s = .next t → Inv t

/-- The invariant holds at construction. -/
def Obligations.ResetMeetsInvariant : Prop := Inv State.reset

/-- D12 (a), R103: two states that differ in the lines alone step alike: the generic subsystem gets the same calls and the host's view
differs in the lines and the answer alone. The two states share `gen` and `draws`, so the generic subsystem answers both alike and leaves
both the same index, in the unconstrained environment too: THE MODEL'S OWN CHOICE (log 3, DESIGN CHOICE, unsafe for just this comparison of
two runs: a real subsystem's draws could differ between them). What the statement says of the block is that the block itself carries
nothing from the lines into a call. -/
def Obligations.LinesDoNotReachTheGenericSubsystem : Prop :=
  ∀ s s' : State, SameButLines s s' → SameOutcome SameButLines (step s) (step s')

/-- R24, D12: what the generic subsystem answered or was told before does not reach the lines but through the index: two states that agree
on the lines, the index, the parameters and the host's list, in the environment where the law fixes the index (log 4), leave the same
lines, whatever `gen` and `draws` each has, so that no free value of log 3 is shared. -/
def Obligations.LinesDependOnIndexAlone : Prop :=
  ∀ s s' t t' : State, s.params.env = .reference → s.params = s'.params → s.cidx = s'.cidx →
    s.clk = s'.clk → s.dat = s'.dat → s.txns = s'.txns → s.pos = s'.pos →
    step s = .next t → step s' = .next t' → t.clk = t'.clk ∧ t.dat = t'.dat
end

