-- ==== Sys2Proof/Laws/Decode.lean ====
section
/-! SUPPORT. The fields of the encodings, one lemma a field: what a canonical BUS word and a built DISP key hold where, and how the
match tables' masked comparisons read as comparisons of those fields. -/

namespace Sys2Proof

/-! ### BUS -/

@[simp] theorem busHeader_busWord (h : BitVec 4) (off : Byte) (data : Half) : busHeader (busWord h off data) = h := by
  ext k hk
  simp only [busHeader, busWord, BitVec.getElem_extractLsb', BitVec.getLsbD_append]
  interval_cases k <;> simp [BitVec.getLsbD_eq_getElem]

@[simp] theorem busOff_busWord (h : BitVec 4) (off : Byte) (data : Half) : busOff (busWord h off data) = off := by
  ext k hk
  simp only [busOff, busWord, BitVec.getElem_extractLsb', BitVec.getLsbD_append]
  interval_cases k <;> simp [BitVec.getLsbD_eq_getElem]

@[simp] theorem busData_busWord (h : BitVec 4) (off : Byte) (data : Half) : busData (busWord h off data) = data := by
  ext k hk
  simp only [busData, busWord, BitVec.getElem_extractLsb', BitVec.getLsbD_append]
  interval_cases k <;> simp [BitVec.getLsbD_eq_getElem]

/-- The header mask keeps the header alone. -/
theorem busWord_header_bits (h : BitVec 4) (off : Byte) (data : Half) :
    busWord h off data &&& 0xf0000000 = h.setWidth 32 <<< 28 := by
  ext k hk
  simp only [busWord, BitVec.getElem_and, BitVec.getElem_append, BitVec.getElem_shiftLeft]
  interval_cases k <;> simp

/-- A row of the BUS map matches exactly the words of its header. -/
theorem header_match (t : BusWord) (h : BitVec 4) :
    (t &&& 0xf0000000 = h.setWidth 32 <<< 28) ↔ busHeader t = h := by
  constructor
  · intro e
    ext k hk
    have := congrArg (fun v : BusWord => v.getLsbD (28 + k)) e
    simp only [busHeader, BitVec.getElem_extractLsb'] at *
    interval_cases k <;> simpa [BitVec.getLsbD_eq_getElem] using this
  · rintro rfl
    ext k hk
    simp only [busHeader, BitVec.getElem_and, BitVec.getElem_shiftLeft]
    interval_cases k <;> simp [BitVec.getLsbD_eq_getElem]

/-! ### DISP -/

/-- The class mask keeps `W` and `C` alone. -/
theorem dispKey_class_bits (w : Bool) (c : OffClass) (i : Byte) : dispKey w c i &&& 0x700 = dispKey w c 0 := by
  cases w <;> cases c <;> revert i <;> decide

@[simp] theorem dispIndex_dispKey (w : Bool) (c : OffClass) (i : Byte) : dispIndex (dispKey w c i) = i := by
  cases w <;> cases c <;> revert i <;> decide

@[simp] theorem keyClass_dispKey (w : Bool) (c : OffClass) (i : Byte) : keyClass (dispKey w c i) = some c := by
  cases w <;> cases c <;> revert i <;> decide

@[simp] theorem dispIsWrite_dispKey (w : Bool) (c : OffClass) (i : Byte) : dispIsWrite (dispKey w c i) = w := by
  cases w <;> cases c <;> revert i <;> decide

end Sys2Proof
end

