-- ==== Sys2Proof/Laws/State.lean ====
section
/-! SUPPORT. What each named update of the state does to each field, one lemma a field, true by unfolding. Later proofs cite these
and unfold no record update. -/

namespace Sys2Proof.Machine

/-! ### answer -/

@[simp] theorem answer_clk (r : Answer) (s : State) : (answer r s).clk = s.clk := rfl
@[simp] theorem answer_dat (r : Answer) (s : State) : (answer r s).dat = s.dat := rfl
@[simp] theorem answer_cidx (r : Answer) (s : State) : (answer r s).cidx = s.cidx := rfl
@[simp] theorem answer_gen (r : Answer) (s : State) : (answer r s).gen = s.gen := rfl
@[simp] theorem answer_params (r : Answer) (s : State) : (answer r s).params = s.params := rfl
@[simp] theorem answer_ret (r : Answer) (s : State) : (answer r s).ret = r := rfl
@[simp] theorem answer_txns (r : Answer) (s : State) : (answer r s).txns = s.txns := rfl
@[simp] theorem answer_pos (r : Answer) (s : State) : (answer r s).pos = s.pos := rfl
@[simp] theorem answer_draws (r : Answer) (s : State) : (answer r s).draws = s.draws := rfl
@[simp] theorem answer_calls (r : Answer) (s : State) : (answer r s).calls = s.calls := rfl

/-! ### advance -/

@[simp] theorem advance_clk (s : State) : (advance s).clk = s.clk := rfl
@[simp] theorem advance_dat (s : State) : (advance s).dat = s.dat := rfl
@[simp] theorem advance_cidx (s : State) : (advance s).cidx = s.cidx := rfl
@[simp] theorem advance_gen (s : State) : (advance s).gen = s.gen := rfl
@[simp] theorem advance_params (s : State) : (advance s).params = s.params := rfl
@[simp] theorem advance_ret (s : State) : (advance s).ret = s.ret := rfl
@[simp] theorem advance_txns (s : State) : (advance s).txns = s.txns := rfl
@[simp] theorem advance_pos (s : State) : (advance s).pos = s.pos + 1 := rfl
@[simp] theorem advance_draws (s : State) : (advance s).draws = s.draws := rfl
@[simp] theorem advance_calls (s : State) : (advance s).calls = s.calls := rfl

/-! ### setLines -/

@[simp] theorem setLines_clk (c d : Bool) (s : State) : (setLines c d s).clk = c := rfl
@[simp] theorem setLines_dat (c d : Bool) (s : State) : (setLines c d s).dat = d := rfl
@[simp] theorem setLines_cidx (c d : Bool) (s : State) : (setLines c d s).cidx = s.cidx := rfl
@[simp] theorem setLines_gen (c d : Bool) (s : State) : (setLines c d s).gen = s.gen := rfl
@[simp] theorem setLines_params (c d : Bool) (s : State) : (setLines c d s).params = s.params := rfl
@[simp] theorem setLines_ret (c d : Bool) (s : State) : (setLines c d s).ret = s.ret := rfl
@[simp] theorem setLines_txns (c d : Bool) (s : State) : (setLines c d s).txns = s.txns := rfl
@[simp] theorem setLines_pos (c d : Bool) (s : State) : (setLines c d s).pos = s.pos := rfl
@[simp] theorem setLines_draws (c d : Bool) (s : State) : (setLines c d s).draws = s.draws := rfl
@[simp] theorem setLines_calls (c d : Bool) (s : State) : (setLines c d s).calls = s.calls := rfl

/-! ### scWrite -/

@[simp] theorem scWrite_clk (b : Byte) (s : State) : (scWrite b s).clk = writtenClk b := rfl
@[simp] theorem scWrite_dat (b : Byte) (s : State) : (scWrite b s).dat = writtenDat b := rfl
@[simp] theorem scWrite_cidx (b : Byte) (s : State) : (scWrite b s).cidx = s.cidx := rfl
@[simp] theorem scWrite_gen (b : Byte) (s : State) : (scWrite b s).gen = s.gen := rfl
@[simp] theorem scWrite_params (b : Byte) (s : State) : (scWrite b s).params = s.params := rfl
@[simp] theorem scWrite_ret (b : Byte) (s : State) : (scWrite b s).ret = s.ret := rfl
@[simp] theorem scWrite_txns (b : Byte) (s : State) : (scWrite b s).txns = s.txns := rfl
@[simp] theorem scWrite_pos (b : Byte) (s : State) : (scWrite b s).pos = s.pos := rfl
@[simp] theorem scWrite_draws (b : Byte) (s : State) : (scWrite b s).draws = s.draws := rfl
@[simp] theorem scWrite_calls (b : Byte) (s : State) : (scWrite b s).calls = s.calls := rfl

/-! ### clearLines -/

@[simp] theorem clearLines_clk (s : State) : (clearLines s).clk = false := rfl
@[simp] theorem clearLines_dat (s : State) : (clearLines s).dat = false := rfl
@[simp] theorem clearLines_cidx (s : State) : (clearLines s).cidx = s.cidx := rfl
@[simp] theorem clearLines_gen (s : State) : (clearLines s).gen = s.gen := rfl
@[simp] theorem clearLines_params (s : State) : (clearLines s).params = s.params := rfl
@[simp] theorem clearLines_ret (s : State) : (clearLines s).ret = s.ret := rfl
@[simp] theorem clearLines_txns (s : State) : (clearLines s).txns = s.txns := rfl
@[simp] theorem clearLines_pos (s : State) : (clearLines s).pos = s.pos := rfl
@[simp] theorem clearLines_draws (s : State) : (clearLines s).draws = s.draws := rfl
@[simp] theorem clearLines_calls (s : State) : (clearLines s).calls = s.calls := rfl

/-! ### record -/

@[simp] theorem record_clk (c : GenericCall) (s : State) : (record c s).clk = s.clk := rfl
@[simp] theorem record_dat (c : GenericCall) (s : State) : (record c s).dat = s.dat := rfl
@[simp] theorem record_cidx (c : GenericCall) (s : State) : (record c s).cidx = s.cidx := rfl
@[simp] theorem record_gen (c : GenericCall) (s : State) : (record c s).gen = s.gen := rfl
@[simp] theorem record_params (c : GenericCall) (s : State) : (record c s).params = s.params := rfl
@[simp] theorem record_ret (c : GenericCall) (s : State) : (record c s).ret = s.ret := rfl
@[simp] theorem record_txns (c : GenericCall) (s : State) : (record c s).txns = s.txns := rfl
@[simp] theorem record_pos (c : GenericCall) (s : State) : (record c s).pos = s.pos := rfl
@[simp] theorem record_draws (c : GenericCall) (s : State) : (record c s).draws = s.draws := rfl
@[simp] theorem record_calls (c : GenericCall) (s : State) : (record c s).calls = s.calls ++ [c] := rfl

/-! ### setGeneric -/

@[simp] theorem setGeneric_clk (g : GenericState) (s : State) : (setGeneric g s).clk = s.clk := rfl
@[simp] theorem setGeneric_dat (g : GenericState) (s : State) : (setGeneric g s).dat = s.dat := rfl
@[simp] theorem setGeneric_cidx (g : GenericState) (s : State) : (setGeneric g s).cidx = g.index := rfl
@[simp] theorem setGeneric_gen (g : GenericState) (s : State) : (setGeneric g s).gen = g.other := rfl
@[simp] theorem setGeneric_params (g : GenericState) (s : State) : (setGeneric g s).params = s.params := rfl
@[simp] theorem setGeneric_ret (g : GenericState) (s : State) : (setGeneric g s).ret = s.ret := rfl
@[simp] theorem setGeneric_txns (g : GenericState) (s : State) : (setGeneric g s).txns = s.txns := rfl
@[simp] theorem setGeneric_pos (g : GenericState) (s : State) : (setGeneric g s).pos = s.pos := rfl
@[simp] theorem setGeneric_draws (g : GenericState) (s : State) : (setGeneric g s).draws = s.draws + 1 := rfl
@[simp] theorem setGeneric_calls (g : GenericState) (s : State) : (setGeneric g s).calls = s.calls := rfl
@[simp] theorem generic_index (s : State) : (generic s).index = s.cidx := rfl
@[simp] theorem generic_other (s : State) : (generic s).other = s.gen := rfl

/-! ### genericWrite -/

@[simp] theorem genericWrite_clk (o : Nat) (b : Byte) (s : State) : (genericWrite o b s).clk = s.clk := rfl
@[simp] theorem genericWrite_dat (o : Nat) (b : Byte) (s : State) : (genericWrite o b s).dat = s.dat := rfl
@[simp] theorem genericWrite_cidx (o : Nat) (b : Byte) (s : State) : (genericWrite o b s).cidx = indexAfterWrite o b s := rfl
@[simp] theorem genericWrite_gen (o : Nat) (b : Byte) (s : State) : (genericWrite o b s).gen = genAfterWrite o b s := rfl
@[simp] theorem genericWrite_params (o : Nat) (b : Byte) (s : State) : (genericWrite o b s).params = s.params := rfl
@[simp] theorem genericWrite_ret (o : Nat) (b : Byte) (s : State) : (genericWrite o b s).ret = s.ret := rfl
@[simp] theorem genericWrite_txns (o : Nat) (b : Byte) (s : State) : (genericWrite o b s).txns = s.txns := rfl
@[simp] theorem genericWrite_pos (o : Nat) (b : Byte) (s : State) : (genericWrite o b s).pos = s.pos := rfl
@[simp] theorem genericWrite_draws (o : Nat) (b : Byte) (s : State) : (genericWrite o b s).draws = s.draws + 1 := rfl
@[simp] theorem genericWrite_calls (o : Nat) (b : Byte) (s : State) : (genericWrite o b s).calls = s.calls ++ [.write o b] := rfl

/-! ### genericRead_state -/

@[simp] theorem genericRead_state_clk (o : Nat) (s : State) : (genericRead o s).2.clk = s.clk := rfl
@[simp] theorem genericRead_state_dat (o : Nat) (s : State) : (genericRead o s).2.dat = s.dat := rfl
@[simp] theorem genericRead_state_cidx (o : Nat) (s : State) : (genericRead o s).2.cidx = indexAfterRead o s := rfl
@[simp] theorem genericRead_state_gen (o : Nat) (s : State) : (genericRead o s).2.gen = genAfterRead o s := rfl
@[simp] theorem genericRead_state_params (o : Nat) (s : State) : (genericRead o s).2.params = s.params := rfl
@[simp] theorem genericRead_state_ret (o : Nat) (s : State) : (genericRead o s).2.ret = s.ret := rfl
@[simp] theorem genericRead_state_txns (o : Nat) (s : State) : (genericRead o s).2.txns = s.txns := rfl
@[simp] theorem genericRead_state_pos (o : Nat) (s : State) : (genericRead o s).2.pos = s.pos := rfl
@[simp] theorem genericRead_state_draws (o : Nat) (s : State) : (genericRead o s).2.draws = s.draws + 1 := rfl
@[simp] theorem genericRead_state_calls (o : Nat) (s : State) : (genericRead o s).2.calls = s.calls ++ [.read o (genericAnswer o s)] := rfl

/-! ### sampleIndex_state -/

@[simp] theorem sampleIndex_state_clk (s : State) : (sampleIndex s).2.clk = s.clk := rfl
@[simp] theorem sampleIndex_state_dat (s : State) : (sampleIndex s).2.dat = s.dat := rfl
@[simp] theorem sampleIndex_state_cidx (s : State) : (sampleIndex s).2.cidx = s.cidx := rfl
@[simp] theorem sampleIndex_state_gen (s : State) : (sampleIndex s).2.gen = s.gen := rfl
@[simp] theorem sampleIndex_state_params (s : State) : (sampleIndex s).2.params = s.params := rfl
@[simp] theorem sampleIndex_state_ret (s : State) : (sampleIndex s).2.ret = s.ret := rfl
@[simp] theorem sampleIndex_state_txns (s : State) : (sampleIndex s).2.txns = s.txns := rfl
@[simp] theorem sampleIndex_state_pos (s : State) : (sampleIndex s).2.pos = s.pos := rfl
@[simp] theorem sampleIndex_state_draws (s : State) : (sampleIndex s).2.draws = s.draws := rfl
@[simp] theorem sampleIndex_state_calls (s : State) : (sampleIndex s).2.calls = s.calls ++ [.index s.cidx] := rfl

/-! ### genericReinit -/

@[simp] theorem genericReinit_clk (s : State) : (genericReinit s).clk = s.clk := rfl
@[simp] theorem genericReinit_dat (s : State) : (genericReinit s).dat = s.dat := rfl
@[simp] theorem genericReinit_cidx (s : State) :
    (genericReinit s).cidx = (Config.genericReinit (generic s) s.draws).index := rfl
@[simp] theorem genericReinit_gen (s : State) :
    (genericReinit s).gen = (Config.genericReinit (generic s) s.draws).other := rfl
@[simp] theorem genericReinit_params (s : State) : (genericReinit s).params = s.params := rfl
@[simp] theorem genericReinit_ret (s : State) : (genericReinit s).ret = s.ret := rfl
@[simp] theorem genericReinit_txns (s : State) : (genericReinit s).txns = s.txns := rfl
@[simp] theorem genericReinit_pos (s : State) : (genericReinit s).pos = s.pos := rfl
@[simp] theorem genericReinit_draws (s : State) : (genericReinit s).draws = s.draws + 1 := rfl
@[simp] theorem genericReinit_calls (s : State) : (genericReinit s).calls = s.calls := rfl

@[simp] theorem sampleIndex_value (s : State) : (sampleIndex s).1 = s.cidx := rfl
@[simp] theorem genericRead_value (o : Nat) (s : State) : (genericRead o s).1 = genericAnswer o s := rfl

end Sys2Proof.Machine
end

