-- ==== Sys2Proof/Laws/Ops.lean ====
section
/-! SUPPORT. One lemma a shared operation that says everything it can do; later proofs cite these. -/

namespace Sys2Proof.Machine

/-! ### REGION -/

theorem dataPort_not_generic : dataPort ∉ genericSet := by decide

theorem classify_data_iff (o : Nat) : classify o = .data ↔ o = dataPort := by
  unfold classify; split <;> simp_all; split <;> simp

theorem classify_generic_iff (o : Nat) : classify o = .generic ↔ o ∈ genericSet := by
  unfold classify
  split
  · next h => subst h; simp [dataPort_not_generic]
  · split <;> simp_all

/-- No offset past 0x1a has a register. -/
theorem classify_above {o : Nat} (h : winSizeMin ≤ o) : classify o = .null := by
  unfold classify dataPort genericSet
  unfold winSizeMin at h
  rw [if_neg (by omega), if_neg]
  simp
  omega

/-! ### The byte order (R40) -/

@[simp] theorem firstByte_eq {n : Nat} (v : BitVec n) : firstByte v = lowByte v := rfl
@[simp] theorem secondByte_eq {n : Nat} (v : BitVec n) : secondByte v = highByte v := rfl
@[simp] theorem joinBytes_eq (first second : Byte) : joinBytes first second = second ++ first := rfl

theorem muxOffset_eq (off : Byte) : muxOffset off = off.toNat := by simp [muxOffset, base]

/-! ### DRead and DWrite, case by case (R100) -/

theorem dread_data_sc {s : State} (h : s.cidx = scRdIdx) :
    dread dataPort s = (scRead s, record (.index s.cidx) s) := by
  simp [dread, sampleIndex, h, scRead, record]

theorem dread_data_generic {s : State} (h : s.cidx ≠ scRdIdx) :
    dread dataPort s = genericRead dataPort (record (.index s.cidx) s) := by
  simp [dread, sampleIndex, h]

theorem dread_generic {o : Nat} (h : o ∈ genericSet) (s : State) : dread o s = genericRead o s := by
  have hne : o ≠ dataPort := fun e => dataPort_not_generic (e ▸ h)
  simp [dread, hne, h]

theorem dread_null {o : Nat} (h : classify o = .null) (s : State) : dread o s = (0, s) := by
  have h1 : o ≠ dataPort := fun e => by simp [(classify_data_iff o).2 e] at h
  have h2 : o ∉ genericSet := fun e => by simp [(classify_generic_iff o).2 e] at h
  simp [dread, h1, h2]

theorem dwrite_data_sc (b : Byte) {s : State} (h : s.cidx = scWrIdx) :
    dwrite dataPort b s = scWrite b (record (.index s.cidx) s) := by
  simp [dwrite, sampleIndex, h]

theorem dwrite_data_generic (b : Byte) {s : State} (h : s.cidx ≠ scWrIdx) :
    dwrite dataPort b s = genericWrite dataPort b (record (.index s.cidx) s) := by
  simp [dwrite, sampleIndex, h]

theorem dwrite_generic {o : Nat} (h : o ∈ genericSet) (b : Byte) (s : State) :
    dwrite o b s = genericWrite o b s := by
  have hne : o ≠ dataPort := fun e => dataPort_not_generic (e ▸ h)
  simp [dwrite, hne, h]

theorem dwrite_null {o : Nat} (h : classify o = .null) (b : Byte) (s : State) : dwrite o b s = s := by
  have h1 : o ≠ dataPort := fun e => by simp [(classify_data_iff o).2 e] at h
  have h2 : o ∉ genericSet := fun e => by simp [(classify_generic_iff o).2 e] at h
  simp [dwrite, h1, h2]

/-- Everything a byte read can do: one of the four read operations of R102, R104, R106 and R108. -/
theorem dread_cases (o : Nat) (s : State) :
    (o = dataPort ∧ s.cidx = scRdIdx ∧ dread o s = (scRead s, record (.index s.cidx) s)) ∨
    (o = dataPort ∧ s.cidx ≠ scRdIdx ∧ dread o s = genericRead dataPort (record (.index s.cidx) s)) ∨
    (o ∈ genericSet ∧ dread o s = genericRead o s) ∨
    (classify o = .null ∧ dread o s = (0, s)) := by
  cases hc : classify o with
  | data =>
    obtain rfl := (classify_data_iff o).1 hc
    by_cases h : s.cidx = scRdIdx
    · exact .inl ⟨rfl, h, dread_data_sc h⟩
    · exact .inr (.inl ⟨rfl, h, dread_data_generic h⟩)
  | generic =>
    have h := (classify_generic_iff o).1 hc
    exact .inr (.inr (.inl ⟨h, dread_generic h s⟩))
  | null => exact .inr (.inr (.inr ⟨rfl, dread_null hc s⟩))

/-- Everything a byte write can do: one of the four write operations of R103, R105, R107 and R109. -/
theorem dwrite_cases (o : Nat) (b : Byte) (s : State) :
    (o = dataPort ∧ s.cidx = scWrIdx ∧ dwrite o b s = scWrite b (record (.index s.cidx) s)) ∨
    (o = dataPort ∧ s.cidx ≠ scWrIdx ∧ dwrite o b s = genericWrite dataPort b (record (.index s.cidx) s)) ∨
    (o ∈ genericSet ∧ dwrite o b s = genericWrite o b s) ∨
    (classify o = .null ∧ dwrite o b s = s) := by
  cases hc : classify o with
  | data =>
    obtain rfl := (classify_data_iff o).1 hc
    by_cases h : s.cidx = scWrIdx
    · exact .inl ⟨rfl, h, dwrite_data_sc b h⟩
    · exact .inr (.inl ⟨rfl, h, dwrite_data_generic b h⟩)
  | generic =>
    have h := (classify_generic_iff o).1 hc
    exact .inr (.inr (.inl ⟨h, dwrite_generic h b s⟩))
  | null => exact .inr (.inr (.inr ⟨rfl, dwrite_null hc b s⟩))

/-- A byte read leaves the lines, the parameters, the host's list and the last answer alone. -/
theorem dread_frame (o : Nat) (s : State) :
    (dread o s).2.clk = s.clk ∧ (dread o s).2.dat = s.dat ∧ (dread o s).2.params = s.params ∧
      (dread o s).2.ret = s.ret ∧ (dread o s).2.txns = s.txns ∧ (dread o s).2.pos = s.pos := by
  obtain ⟨-, -, h⟩ | ⟨-, -, h⟩ | ⟨-, h⟩ | ⟨-, h⟩ := dread_cases o s <;> simp [h]

/-- A byte write leaves the parameters, the host's list and the last answer alone. -/
theorem dwrite_frame (o : Nat) (b : Byte) (s : State) :
    (dwrite o b s).params = s.params ∧ (dwrite o b s).ret = s.ret ∧ (dwrite o b s).txns = s.txns ∧
      (dwrite o b s).pos = s.pos := by
  obtain ⟨-, -, h⟩ | ⟨-, -, h⟩ | ⟨-, h⟩ | ⟨-, h⟩ := dwrite_cases o b s <;> simp [h]

/-- The mux neither reads nor writes the last answer, so an answer given before a byte access is as good as one given after. -/
theorem dread_answer (o : Nat) (r : Answer) (s : State) :
    dread o (answer r s) = ((dread o s).1, answer r (dread o s).2) := by
  obtain ⟨rfl, h, e⟩ | ⟨rfl, h, e⟩ | ⟨h, e⟩ | ⟨h, e⟩ := dread_cases o s
  · rw [dread_data_sc (by simpa using h), e]; rfl
  · rw [dread_data_generic (by simpa using h), e]; rfl
  · rw [dread_generic h, e]; rfl
  · rw [dread_null h, e]

theorem dwrite_answer (o : Nat) (b : Byte) (r : Answer) (s : State) :
    dwrite o b (answer r s) = answer r (dwrite o b s) := by
  obtain ⟨rfl, h, e⟩ | ⟨rfl, h, e⟩ | ⟨h, e⟩ | ⟨h, e⟩ := dwrite_cases o b s
  · rw [dwrite_data_sc b (by simpa using h), e]; rfl
  · rw [dwrite_data_generic b (by simpa using h), e]; rfl
  · rw [dwrite_generic h, e]; rfl
  · rw [dwrite_null h, e]

@[simp] theorem answer_answer (q r : Answer) (s : State) : answer q (answer r s) = answer q s := rfl

/-- A byte access only adds to the record of calls and to the count of free values. -/
theorem dread_extends (o : Nat) (s : State) :
    (∃ cs, (dread o s).2.calls = s.calls ++ cs) ∧ s.draws ≤ (dread o s).2.draws := by
  obtain ⟨-, -, h⟩ | ⟨-, -, h⟩ | ⟨-, h⟩ | ⟨-, h⟩ := dread_cases o s <;> simp [h]

theorem dwrite_extends (o : Nat) (b : Byte) (s : State) :
    (∃ cs, (dwrite o b s).calls = s.calls ++ cs) ∧ s.draws ≤ (dwrite o b s).draws := by
  obtain ⟨-, -, h⟩ | ⟨-, -, h⟩ | ⟨-, h⟩ | ⟨-, h⟩ := dwrite_cases o b s <;> simp [h]

/-! ### The width adapter (R130 to R133) -/

theorem memRead8_eq (off : Byte) (s : State) :
    memRead8 off s = answer (.byte (dread off.toNat s).1) (dread off.toNat s).2 := by
  simp [memRead8, muxOffset_eq]

theorem memRead16_eq (off : Byte) (s : State) :
    memRead16 off s =
      answer (.half (joinBytes (dread off.toNat s).1 (dread (off.toNat + 1) (dread off.toNat s).2).1))
        (dread (off.toNat + 1) (dread off.toNat s).2).2 := by
  simp [memRead16, muxOffset_eq]

theorem memWrite8_eq {n : Nat} (off : Byte) (v : BitVec n) (s : State) :
    memWrite8 off v s = answer .nothing (dwrite off.toNat (lowByte v) s) := by
  simp [memWrite8, muxOffset_eq]

theorem memWrite16_eq {n : Nat} (off : Byte) (v : BitVec n) (s : State) :
    memWrite16 off v s =
      answer .nothing (dwrite (off.toNat + 1) (highByte v) (dwrite off.toNat (lowByte v) s)) := by
  simp [memWrite16, muxOffset_eq]

theorem inWindow_iff (o : Nat) (s : State) : inWindow o s = true ↔ o < s.params.winSize := by
  simp [inWindow]

/-- The check of a bus access, whose mux offset is its window offset (R129). -/
theorem inWindow_muxOffset_iff (off : Byte) (s : State) :
    inWindow (muxOffset off) s = true ↔ off.toNat < s.params.winSize := by
  rw [inWindow_iff, muxOffset_eq]

/-! ### The key (R65) and the step -/

/-- Building a key changes nothing but the record of calls. -/
theorem buildKey_state (w : Bool) (o : Nat) (s : State) :
    (buildKey w o s).2 = if o = dataPort then record (.index s.cidx) s else s := by
  unfold buildKey
  by_cases h : o = dataPort
  · simp [h, (classify_data_iff dataPort).2 rfl, sampleIndex]
  · have : classify o ≠ .data := fun e => h ((classify_data_iff o).1 e)
    simp [h, this]

theorem buildKey_key (w : Bool) (o : Nat) (s : State) :
    (buildKey w o s).1 = dispKey w (classify o) (if o = dataPort then s.cidx else 0) := by
  unfold buildKey
  by_cases h : o = dataPort
  · simp [h, (classify_data_iff dataPort).2 rfl, sampleIndex]
  · have : classify o ≠ .data := fun e => h ((classify_data_iff o).1 e)
    simp [h, this]

/-- Everything presenting a byte access can come to. -/
theorem presentByte_cases (w : Bool) (o : Nat) (b : Byte) (s : State) :
    (o < s.params.winSize ∧
      presentByte w o b s = .word (.disp (buildKey w o s).1 o b) (buildKey w o s).2) ∨
    (s.params.winSize ≤ o ∧ presentByte w o b s = .refused .outsideWindow) := by
  unfold presentByte
  by_cases h : inWindow o s = true
  · exact .inl ⟨(inWindow_iff o s).1 h, if_pos h⟩
  · exact .inr ⟨by rw [inWindow_iff] at h; omega, if_neg h⟩

/-- Everything a run of one word can do. -/
theorem runWord_next {w : Fetched} {t u : State} (h : runWord w t = .next u) :
    ∃ i v, decode w = .ok i ∧ exec i t = .next v ∧ u = advance v := by
  unfold runWord at h
  split at h
  · cases h
  · next i hi =>
    split at h
    · next v hv => exact ⟨i, v, hi, hv, by cases h; rfl⟩
    · cases h
    · cases h

/-- Everything a step that goes on can do: nothing pending, an action of the host, or a word decoded and executed. -/
theorem step_next {s u : State} (h : step s = .next u) :
    (pending s = none ∧ u = s) ∨
    (∃ op t, pending s = some op ∧ present op s = .action t ∧ u = advance t) ∨
    (∃ op w t i v, pending s = some op ∧ present op s = .word w t ∧ decode w = .ok i ∧
      exec i t = .next v ∧ u = advance v) := by
  unfold step at h
  split at h
  · next hp => exact .inl ⟨hp, by cases h; rfl⟩
  · next op hp =>
    split at h
    · next t ht => exact .inr (.inl ⟨op, t, hp, ht, by cases h; rfl⟩)
    · next w t ht =>
      obtain ⟨i, v, hi, hv, hu⟩ := runWord_next h
      exact .inr (.inr ⟨op, w, t, i, v, hp, ht, hi, hv, hu⟩)
    · cases h

end Sys2Proof.Machine
end

