-- ==== Sys2Proof/Laws/PerInstr.lean ====
section
/-! SUPPORT. Per instruction: its canonical encoding carries the bits its row of spec/opcode_table.json fixes. -/

namespace Sys2Proof.Laws.RowBits

/-- The row (match, mask) opcode_table.json gives an instruction: on 32 bits for a BUS row, on 11 for a DISP row. -/
def row : Instr → BusWord × BusWord
  | .rd8 _ => (0x00000000, 0xf0000000)
  | .rd16 _ => (0x10000000, 0xf0000000)
  | .wr8 _ _ => (0x40000000, 0xf0000000)
  | .wr16 _ _ => (0x50000000, 0xf0000000)
  | .reset => (0x80000000, 0xf0000000)
  | .scRd => (0x23e, 0x7ff)
  | .scWr _ => (0x63f, 0x7ff)
  | .dpGenRd _ => (0x200, 0x700)
  | .dpGenWr _ _ => (0x600, 0x700)
  | .genRd _ => (0x100, 0x700)
  | .genWr _ _ => (0x500, 0x700)
  | .nulRd _ => (0x000, 0x700)
  | .nulWr _ _ => (0x400, 0x700)

/-- The bits of an encoding, a DISP key zero-extended. -/
def bits : Fetched → BusWord
  | .bus t => t
  | .disp k _ _ => k.setWidth 32

def Statement (i : Instr) : Prop := bits (encode i) &&& (row i).2 = (row i).1

theorem rd8 (off : Byte) : Statement (.rd8 off) := (busWord_header_bits 0x0 off 0).trans rfl

theorem rd16 (off : Byte) : Statement (.rd16 off) := (busWord_header_bits 0x1 off 0).trans rfl

theorem wr8 (off b : Byte) : Statement (.wr8 off b) :=
  (busWord_header_bits 0x4 off (b.setWidth 16)).trans rfl

theorem wr16 (off : Byte) (v : Half) : Statement (.wr16 off v) := (busWord_header_bits 0x5 off v).trans rfl

theorem reset : Statement .reset := by unfold Statement; decide

theorem scRd : Statement .scRd := by unfold Statement; decide

theorem scWr (b : Byte) : Statement (.scWr b) := by
  show bits (encode (.scWr 0)) &&& 0x7ff = 0x63f
  decide

theorem dpGenRd (i : Byte) : Statement (.dpGenRd i) := by
  unfold Statement
  revert i
  decide

theorem dpGenWr (i b : Byte) : Statement (.dpGenWr i b) := by
  show bits (encode (.dpGenWr i 0)) &&& 0x700 = 0x600
  revert i
  decide

theorem genRd (o : Nat) : Statement (.genRd o) := by
  show bits (encode (.genRd 0)) &&& 0x700 = 0x100
  decide

theorem genWr (o : Nat) (b : Byte) : Statement (.genWr o b) := by
  show bits (encode (.genWr 0 0)) &&& 0x700 = 0x500
  decide

theorem nulRd (o : Nat) : Statement (.nulRd o) := by
  show bits (encode (.nulRd 0)) &&& 0x700 = 0x000
  decide

theorem nulWr (o : Nat) (b : Byte) : Statement (.nulWr o b) := by
  show bits (encode (.nulWr 0 0)) &&& 0x700 = 0x400
  decide

end Sys2Proof.Laws.RowBits
end

