-- ==== Sys2Proof/Laws/Safety.lean ====
section
/-! SUPPORT. The small lemmas of Safety.lean's definitions: a run taken apart step by step, the last writer of a joined history, what
a byte write does to the lines, and what a byte access adds to the record of calls. -/

namespace Sys2Proof.Machine

/-! ### Runs -/

theorem core_run_next {n : Nat} {s u : State} (h : step s = .next u) :
    Host.Core.run core (n + 1) s = Host.Core.run core n u := by
  have : core.step s = .next u := h
  simp only [Host.Core.run, this]

theorem core_run_refused {n : Nat} {s : State} {r : Refusal} (h : step s = .refused r) :
    Host.Core.run core (n + 1) s = .refused r := by
  have : core.step s = .refused r := h
  simp only [Host.Core.run, this]

theorem lineHistory_next {n : Nat} {s u : State} (h : step s = .next u) :
    lineHistory (n + 1) s = lineEvents s ++ lineHistory n u := by
  simp only [lineHistory, h]

/-! ### The last writer (R23) -/

@[simp] theorem linesAfter_nil (p : Bool × Bool) : linesAfter p [] = p := rfl

theorem linesAfter_append (p : Bool × Bool) (a b : List LineEvent) :
    linesAfter p (a ++ b) = linesAfter (linesAfter p a) b := by
  unfold linesAfter
  rw [List.getLast?_append]
  cases b.getLast? <;> simp

/-- A byte write leaves the lines its event gives, or as they were (R103, R105, R107, R109). -/
theorem dwrite_lines (o : Nat) (b : Byte) (s : State) :
    ((dwrite o b s).clk, (dwrite o b s).dat) = linesAfter (s.clk, s.dat) (writeEvents o b s) := by
  obtain ⟨rfl, h, e⟩ | ⟨rfl, h, e⟩ | ⟨h, e⟩ | ⟨h, e⟩ := dwrite_cases o b s
  · simp [e, writeEvents, h, linesAfter, LineEvent.lines]
  · simp [e, writeEvents, h]
  · have hne : o ≠ dataPort := fun q => dataPort_not_generic (q ▸ h)
    simp [e, writeEvents, hne]
  · have hne : o ≠ dataPort := fun q => by simp [(classify_data_iff o).2 q] at h
    simp [e, writeEvents, hne]

/-! ### The record of calls (R101 to R107) -/

theorem callsOk_append (p : Option GenericCall) (a c : List GenericCall) :
    callsOk p (a ++ c) = (callsOk p a && callsOk (a.getLast?.or p) c) := by
  induction a generalizing p with
  | nil => simp [callsOk]
  | cons x xs ih =>
    simp only [List.cons_append, callsOk, ih, Bool.and_assoc]
    congr 3
    cases xs <;> simp [List.getLast?_cons]

/-- A record that is in order by itself is in order after anything. -/
theorem callsOk_after (p : Option GenericCall) {cs : List GenericCall} (h : callsOk none cs = true) :
    callsOk p cs = true := by
  cases cs with
  | nil => rfl
  | cons c cs =>
    simp only [callsOk, Bool.and_eq_true] at h ⊢
    refine ⟨?_, h.2⟩
    have h1 := h.1
    cases c <;> simp only [callOk] at h1 ⊢ <;> split at h1 <;> simp_all

theorem dread_calls (o : Nat) (s : State) :
    ∃ cs, (dread o s).2.calls = s.calls ++ cs ∧ callsOk none cs = true := by
  obtain ⟨rfl, h, e⟩ | ⟨rfl, h, e⟩ | ⟨h, e⟩ | ⟨h, e⟩ := dread_cases o s
  · exact ⟨[.index s.cidx], by simp [e], rfl⟩
  · exact ⟨[.index s.cidx, .read dataPort (genericAnswer dataPort (record (.index s.cidx) s))], by simp [e],
      by simp [callsOk, callOk, h]⟩
  · have hne : o ≠ dataPort := fun q => dataPort_not_generic (q ▸ h)
    exact ⟨[.read o (genericAnswer o s)], by simp [e], by simp [callsOk, callOk, hne, (classify_generic_iff o).2 h]⟩
  · exact ⟨[], by simp [e], rfl⟩

theorem dwrite_calls (o : Nat) (b : Byte) (s : State) :
    ∃ cs, (dwrite o b s).calls = s.calls ++ cs ∧ callsOk none cs = true := by
  obtain ⟨rfl, h, e⟩ | ⟨rfl, h, e⟩ | ⟨h, e⟩ | ⟨h, e⟩ := dwrite_cases o b s
  · exact ⟨[.index s.cidx], by simp [e], rfl⟩
  · exact ⟨[.index s.cidx, .write dataPort b], by simp [e], by simp [callsOk, callOk, h]⟩
  · have hne : o ≠ dataPort := fun q => dataPort_not_generic (q ▸ h)
    exact ⟨[.write o b], by simp [e], by simp [callsOk, callOk, hne, (classify_generic_iff o).2 h]⟩
  · exact ⟨[], by simp [e], rfl⟩

end Sys2Proof.Machine
end

