-- ==== Sys2Proof/Tests/Slice0.lean ====
section
/-! SUPPORT. Small tests of the model, expected results from 95_test_vectors.md and 30_encoding.md R73; the smoke test of WellFormed;
and, for every statement with hypotheses, a theorem that a concrete state and operands meet them together. -/

namespace Sys2Proof.Tests
open Sys2Proof Sys2Proof.Machine

/-- A state in the reference environment with the smallest window that holds offset 0x1b. -/
def st (clk dat : Bool) (cidx : Byte) : State where
  clk := clk
  dat := dat
  cidx := cidx
  gen := 0
  params := { winSize := 0x1c, busBits := 16, env := .reference }
  ret := .nothing
  txns := []
  pos := 0
  draws := 0
  calls := []

/-- The same with one entry pending. -/
def issuing (op : HostOp) (s : State) : State := { s with txns := [op] }

def after : Host.Outcome State Fault Refusal → Option State
  | .next t => some t
  | .fault _ => none
  | .refused _ => none

def refusal : Host.Outcome State Fault Refusal → Option Refusal
  | .next _ => none
  | .fault _ => none
  | .refused r => some r

/-- Lines, index and answer after an outcome. -/
def view (o : Host.Outcome State Fault Refusal) : Option (Bool × Bool × Byte × Answer) :=
  (after o).map fun t => (t.clk, t.dat, t.cidx, t.ret)

/-- The calls made, on record after an outcome. -/
def callsAfter (o : Host.Outcome State Fault Refusal) : Option (List GenericCall) := (after o).map (·.calls)

/-! ## WellFormed refuses (R104 to R109) -/

theorem test_wf_dpGenRd_sc_index : Instr.wf (.dpGenRd 0x3e) = false := by decide
theorem test_wf_dpGenWr_sc_index : Instr.wf (.dpGenWr 0x3f 0) = false := by decide
theorem test_wf_genRd_data_port : Instr.wf (.genRd 0x15) = false := by decide
theorem test_wf_genWr_null_offset : Instr.wf (.genWr 0x0b 0) = false := by decide
theorem test_wf_nulRd_generic_offset : Instr.wf (.nulRd 0x14) = false := by decide
theorem test_wf_nulWr_data_port : Instr.wf (.nulWr 0x15 0) = false := by decide
theorem test_wf_accepts : [Instr.dpGenRd 0x3f, .dpGenWr 0x3e 0, .genRd 0x1a, .genWr 0x14 0, .nulRd 0x0b, .nulWr 0x100 0].all Instr.wf = true := by
  decide

/-! ## Decoding, one word a constructor (R61 to R66, R73, section 2.9) -/

theorem test_decode_rd8 : decodeBus 0b0000_0000_00010101_0000000000000000 = .ok (.rd8 0x15) := by decide
theorem test_decode_rd16 : decodeBus 0b0001_0000_00010100_0000000000000000 = .ok (.rd16 0x14) := by decide
theorem test_decode_wr8 : decodeBus 0b0100_1111_00010101_00010010_00110100 = .ok (.wr8 0x15 0x34) := by decide
theorem test_decode_wr16 : decodeBus 0b0101_0000_00010100_00110000_00111111 = .ok (.wr16 0x14 0x303f) := by decide
theorem test_decode_reset : decodeBus 0b1000_0101_11111111_0000000000000001 = .ok .reset := by decide
theorem test_decode_scRd : decodeDisp 0b0_10_00111110 0x15 0 = .ok .scRd := by decide
theorem test_decode_scWr : decodeDisp 0b1_10_00111111 0x15 0x30 = .ok (.scWr 0x30) := by decide
theorem test_decode_dpGenRd : decodeDisp 0b0_10_00111111 0x15 0 = .ok (.dpGenRd 0x3f) := by decide
theorem test_decode_dpGenWr : decodeDisp 0b1_10_10111111 0x15 7 = .ok (.dpGenWr 0xbf 7) := by decide
theorem test_decode_genRd : decodeDisp 0b0_01_00000000 0x0c 0 = .ok (.genRd 0x0c) := by decide
theorem test_decode_genWr : decodeDisp 0b1_01_00000000 0x14 0x3f = .ok (.genWr 0x14 0x3f) := by decide
theorem test_decode_nulRd : decodeDisp 0b0_00_00000000 0x16 0 = .ok (.nulRd 0x16) := by decide
theorem test_decode_nulWr : decodeDisp 0b1_00_00000000 0x10 0x30 = .ok (.nulWr 0x10 0x30) := by decide
theorem test_decode_refused_words :
    decodeBus 0x20140000 = .error .fourByteAccess ∧ decodeBus 0x6014303f = .error .fourByteAccess ∧
    decodeBus 0x30000000 = .error .eightByteAccess ∧ decodeBus 0x70000000 = .error .eightByteAccess ∧
    decodeBus 0x90000000 = .error .reservedHeader ∧ decodeBus 0xc0000000 = .error .reservedHeader := by decide
theorem test_decode_class_3_rejected : decodeDisp 0b0_11_00000000 0x15 0 = .error .unbuiltClass := by decide
theorem test_decode_mismatch_rejected : decodeDisp 0x500 0x15 0 = .error .classMismatch := by decide
theorem test_table_word_disp : decodeTableWord 16 0x63f = some (.scWr 0) := by decide
theorem test_table_word_bus : decodeTableWord 32 0x5014303f = some (.wr16 0x14 0x303f) := by decide

/-! ## The constants of R9 -/

theorem test_constants : legacyBase = 0x3c0 ∧ indexPort = 0x14 ∧ dataPort = 0x15 ∧ scRdIdx = 0x3e ∧ scWrIdx = 0x3f ∧
    wrClkBit = 5 ∧ wrDatBit = 4 ∧ rdDatBit = 3 ∧ rdClkBit = 2 ∧ implementableWidths = [1, 2] ∧ validWidths = [1, 2, 4] ∧
    byteOrder = .little := by decide
theorem test_header_widths :
    [0x0, 0x1, 0x2, 0x3, 0x5, 0x8].map headerWidth = [some 1, some 2, some 4, some 8, some 2, none] := by decide

/-! ## One step each (sections 2.2 to 2.8) -/

theorem test_scRd_clk_is_bit_2 : view (exec .scRd (st true false 0x3e)) = some (true, false, 0x3e, .byte 0x04) := by decide
theorem test_scRd_dat_is_bit_3 : view (exec .scRd (st false true 0x3e)) = some (false, true, 0x3e, .byte 0x08) := by decide
theorem test_scWr_0x20_is_clk : view (exec (.scWr 0x20) (st false true 0x3f)) = some (true, false, 0x3f, .nothing) := by decide
theorem test_scWr_read_layout_does_not_fit :
    view (exec (.scWr 0x0c) (st true true 0x3f)) = some (false, false, 0x3f, .nothing) := by decide
theorem test_dpGenRd_calls_generic :
    callsAfter (exec (.dpGenRd 0x3f) (st true true 0x3f)) = some [.read 0x15 (Config.genericRead ⟨0x3f, 0⟩ 0 0x15).1] := by rfl
theorem test_dpGenWr_keeps_lines :
    callsAfter (exec (.dpGenWr 0x3e 0x30) (st false false 0x3e)) = some [.write 0x15 0x30] := by decide
theorem test_genRd_calls_generic :
    callsAfter (exec (.genRd 0x02) (st true false 0)) = some [.read 0x02 (Config.genericRead ⟨0, 0⟩ 0 0x02).1] := by rfl
theorem test_genWr_selects_index :
    view (exec (.genWr 0x14 0x3f) (st true false 0)) = some (true, false, 0x3f, .nothing) := by decide
theorem test_nulRd_is_zero : view (exec (.nulRd 0x16) (st true true 0x3e)) = some (true, true, 0x3e, .byte 0x00) := by decide
theorem test_nulWr_changes_nothing : after (exec (.nulWr 0x10 0x30) (st true false 0x3f)) = some (st true false 0x3f) := by decide
theorem test_rd8_data_port : view (exec (.rd8 0x15) (st true false 0x3e)) = some (true, false, 0x3e, .byte 0x04) := by decide
theorem test_rd8_past_window : refusal (exec (.rd8 0x1c) (st true false 0x3e)) = some .outsideWindow := by decide
theorem test_rd16_high_byte_null : view (exec (.rd16 0x15) (st true true 0x3e)) = some (true, true, 0x3e, .half 0x000c) := by decide
theorem test_rd16_last_offset : view (exec (.rd16 0x1b) (st true true 0)) = some (true, true, 0, .half 0x0000) := by decide
theorem test_byteRead_past_window :
    refusal (step (issuing (.byteRead 0x1c) (st true true 0))) = some .outsideWindow := by decide
theorem test_byteRead_last_offset :
    view (step (issuing (.byteRead 0x1b) (st true true 0))) = some (true, true, 0, .byte 0x00) := by decide
theorem test_wr8_under_read_index : view (exec (.wr8 0x15 0x20) (st false false 0x3e)) = some (false, false, 0x3e, .nothing) := by decide
theorem test_wr8_full_index_byte : view (exec (.wr8 0x15 0x30) (st false false 0xbf)) = some (false, false, 0xbf, .nothing) := by decide
theorem test_wr16_selects_then_writes :
    view (exec (.wr16 0x14 0x303f) (st false false 0)) = some (true, true, 0x3f, .nothing) := by decide
theorem test_wr16_at_0x13 : view (exec (.wr16 0x13 0x3f00) (st true false 0)) = some (true, false, 0x3f, .nothing) := by decide
theorem test_reset_keeps_index : view (exec .reset (st true true 0x3f)) = some (false, false, 0x3f, .nothing) := by decide
theorem test_wide_bus_value : view (.next (memWrite16 0x14 (0x1234303f : BitVec 32) (st false false 0))) =
    some (true, true, 0x3f, .nothing) := by decide
theorem test_wide_read_does_not_wrap : dread 0x100 (st true true 0) = (0, st true true 0) := by decide
theorem test_step_byte_write :
    view (step (issuing (.byteWrite 0x15 0x10) (st true false 0x3f))) = some (false, true, 0x3f, .nothing) := by decide
theorem test_step_save : view (step (issuing .save (st true false 0))) = some (true, false, 0, .lines true false) := by decide
theorem test_fetch_word_runs_next :
    view (step ((st true true 0).withFetchWord 16 0x23e)) = some (true, true, 0x3e, .byte 0x0c) := by decide
theorem test_asm : asm (.wr16 0x14 0x303f) = some "WR16 0x14, 0x303f" := by decide
theorem test_asm_pads : asm (.wr8 0x0b 0x55) = some "WR8 0x0b, 0x55" ∧ asm (.wr8 0x15 0x00) = some "WR8 0x15, 0x00" ∧
    asm (.wr16 0x14 0x003f) = some "WR16 0x14, 0x003f" ∧ asm (.rd16 0x09) = some "RD16 0x09" := by decide

/-! ## The hypotheses of the statements are met -/

theorem witness_SpecWordsDecode : (st true true 0x3f).cidx = 0x3f ∧ (st true true 0x3e).cidx = 0x3e := by decide
theorem witness_DecodeEncodeRoundTrip : Instr.wf (.genWr 0x1a 0xff) = true := by decide
theorem witness_BusReencodeIsCanonical : decodeBus 0x4f15ff30 = .ok (.wr8 0x15 0x30) := by decide
theorem witness_DecodedIsWellFormed : decode (.disp 0x2be 0x15 0) = .ok (.dpGenRd 0xbe) := by decide
theorem witness_IndexSampledOnlyAtDataPort : dataPort = 0x15 := by decide
theorem witness_ScRdReadsTheLines : (st true true 0).clk = true ∧ (st true true 0).dat = true := by decide
theorem witness_ScWrWritesBothLines :
    (0xff : Byte) &&& 0x30 = 0x30 &&& 0x30 ∧ (st true false 0x3f).cidx = 0x3f := by decide
theorem witness_DpGenRdReadsGeneric : (0x3f : Byte) ≠ 0x3e ∧ (st true false 0x00).cidx = 0x00 := by decide
theorem witness_DpGenWrWritesGeneric : (0x3e : Byte) ≠ 0x3f ∧ (st true false 0x00).cidx = 0x00 := by decide
theorem witness_GenRdReadsGeneric : 0x00 ∈ genericSet ∧ 0x1a ∈ genericSet := by decide
theorem witness_GenWrWritesGeneric : 0x14 ∈ genericSet ∧ (st true false 0).params.env = .reference := by decide
theorem witness_NulRdAnswersZero : classify 0x0b = .null ∧ classify 0x1b = .null ∧ (st true false 0).params.wf = true := by decide
theorem witness_NulWrIsDropped : classify 0x10 = .null ∧ classify 0x19 = .null := by decide

/-- Reading index selected after a qualifying write: one step, no writer in it. -/
theorem witness_LinesRoundTrip : ∃ t, (issuing (.byteWrite 0x14 0x3e) (st false false 0x3f)).cidx = 0x3f ∧
    Host.Core.run core 1 (dwrite 0x15 (writeView true false) (issuing (.byteWrite 0x14 0x3e) (st false false 0x3f))) = .next t ∧
    lineHistory 1 (dwrite 0x15 (writeView true false) (issuing (.byteWrite 0x14 0x3e) (st false false 0x3f))) = [] ∧
    t.cidx = 0x3e := ⟨_, by decide, rfl, by decide, rfl⟩
theorem witness_LinesHoldTheLastWrite :
    (∃ t, Host.Core.run core 1 (issuing (.bus 0x5014303f) (st false false 0)) = .next t ∧ t.clk = true) ∧
    (∃ t, Host.Core.run core 2 { State.reset with txns := [.bus 0x5014303f, .bus 0x80000000] } = .next t ∧ t.clk = false) :=
  ⟨⟨_, rfl, rfl⟩, ⟨_, rfl, rfl⟩⟩

/-- Whether the step from `s` goes on and changes a line. -/
def changesLine (s : State) : Bool :=
  match step s with
  | .next t => t.clk != s.clk || t.dat != s.dat
  | .fault _ => false
  | .refused _ => false

/-- Each of the six kinds of step that change a line. -/
theorem witness_OnlyWritersChangeLines :
    changesLine (issuing (.bus 0x80000000) (st true false 0)) = true ∧
    changesLine (issuing (.restore true true) (st true false 0)) = true ∧
    changesLine (issuing (.byteWrite 0x15 0x10) (st true false 0x3f)) = true ∧
    changesLine (issuing (.bus 0x40150010) (st true false 0x3f)) = true ∧
    changesLine (issuing (.bus 0x50150010) (st true false 0x3f)) = true ∧
    changesLine (issuing (.bus 0x5014103f) (st true false 0)) = true := by decide

theorem witness_Rd8ReturnsTheByte : (0x1b : Byte).toNat < (st true false 0x3e).params.winSize ∧
    classify (0x1b : Byte).toNat = .null ∧ 0x15 < (st true false 0x3e).params.winSize ∧ (st true false 0x3e).clk = true ∧
    (st true false 0x3e).dat = false ∧ (st true false 0x3e).cidx = 0x3e := by decide
theorem witness_Rd16ReadsLowThenHigh : (0x1b : Byte).toNat < (st true true 0x3e).params.winSize ∧
    0x15 < (st true true 0x3e).params.winSize ∧ (st true true 0x3e).clk = true ∧ (st true true 0x3e).dat = true ∧
    (st true true 0x3e).cidx = 0x3e := by decide
theorem witness_Wr8WritesTheLowByte : (0x1b : Byte).toNat < (st true true 0x3f).params.winSize ∧
    0x15 < (st true true 0x3f).params.winSize ∧ (st true true 0x3f).cidx = 0x3f := by decide
theorem witness_Wr16WritesLowThenHigh : (0x1b : Byte).toNat < (st true true 0).params.winSize ∧
    0x15 < (st true true 0).params.winSize ∧ 0x14 < (st true true 0).params.winSize := by decide
theorem witness_WideAccessIsTwoByteAccesses : (st true true 0).params.wf = true ∧
    (0x1a : Byte).toNat + 1 < (st true true 0).params.winSize := by decide
theorem witness_LastOffsetHighByteIsNull : (st true true 0).params.wf = true ∧
    (0x1b : Byte).toNat + 1 = (st true true 0).params.winSize := by decide
theorem witness_LittleEndian : (0x14 : Byte).toNat < (st true true 0).params.winSize := by decide
theorem witness_BusWordAboveTheWidth : 16 ≤ (st true true 0).params.busBits := by decide
theorem witness_OutsideWindowIsRefused : (st true true 0).params.winSize ≤ (0x1c : Byte).toNat ∧
    (issuing (.byteRead 0x1c) (st true true 0)).params.winSize ≤ 0x1c ∧
    pending (issuing (.byteRead 0x1c) (st true true 0)) = some (.byteRead 0x1c) ∧
    pending (issuing (.byteWrite 0x1c 0) (st true true 0)) = some (.byteWrite 0x1c 0) := by decide
theorem witness_ByteAccessCompletes : 0x1b < (issuing (.byteRead 0x1b) (st true true 0)).params.winSize ∧
    pending (issuing (.byteRead 0x1b) (st true true 0)) = some (.byteRead 0x1b) ∧
    pending (issuing (.byteWrite 0x1b 0) (st true true 0)) = some (.byteWrite 0x1b 0) := by decide
theorem witness_AccessWidths : headerWidth (busHeader 0x20140000) = some 4 ∧ headerWidth (busHeader 0x70000000) = some 8 ∧
    pending (issuing (.bus 0x20140000) (st true true 0)) = some (.bus 0x20140000) ∧
    headerWidth (busHeader 0x5014303f) = some 2 ∧ headerWidth (busHeader 0x00150000) = some 1 := by decide
theorem witness_UnacceptedHeadersAreRefused :
    [0x20140000, 0x6014303f, 0x30000000, 0x70000000, 0x90000000, 0xf0000000].all (fun w =>
      pending (issuing (.bus w) (st true true 0)) == some (.bus w)) = true ∧
    busHeader 0x20140000 = 0x2 ∧ busHeader 0x6014303f = 0x6 ∧ busHeader 0x30000000 = 0x3 ∧ busHeader 0x70000000 = 0x7 ∧
    0x9 ≤ busHeader 0x90000000 ∧ 0x9 ≤ busHeader 0xf0000000 := by decide
theorem witness_AcceptedAccessCompletes :
    pending (issuing (.bus 0x101b0000) (st true true 0)) = some (.bus 0x101b0000) ∧ decodeBus 0x101b0000 = .ok (.rd16 0x1b) ∧
    accessOffset (.rd16 0x1b) = some 0x1b ∧ isBusRead (.rd16 0x1b) = true ∧ isBusRead (.wr8 0x1b 0) = false ∧
    (0x1b : Byte).toNat < (issuing (.bus 0x101b0000) (st true true 0)).params.winSize := by decide
theorem witness_SideEffectsOfByteAccesses :
    classify 0x16 = .null ∧ (st true true 0x3e).cidx = 0x3e ∧ (st true true 0x3f).cidx = 0x3f := by decide
theorem witness_ReadsKeepTheLines : (∃ t, exec (.rd8 0x1b) (st true false 0x3e) = .next t) ∧
    (∃ t, exec (.rd16 0x14) (st true false 0x3e) = .next t) ∧ (∃ t, exec .scRd (st true false 0x3e) = .next t) ∧
    (∃ t, exec (.dpGenRd 0) (st true false 0) = .next t) ∧ (∃ t, exec (.genRd 0x1a) (st true false 0) = .next t) ∧
    (∃ t, exec (.nulRd 0x0b) (st true false 0) = .next t) := ⟨⟨_, rfl⟩, ⟨_, rfl⟩, ⟨_, rfl⟩, ⟨_, rfl⟩, ⟨_, rfl⟩, ⟨_, rfl⟩⟩
theorem witness_InstructionFrame : ∃ t, exec (.wr16 0x14 0x303f) (st true false 0) = .next t := ⟨_, rfl⟩
theorem witness_SaveAndRestore : pending (issuing .save (st true false 0)) = some .save ∧
    pending (issuing (.restore false true) (st true false 0)) = some (.restore false true) := by decide
theorem witness_AdaptersAreIndependent :
    ∃ us, stepAdapter 1 [st true true 0, issuing (.bus 0x80000000) (st true true 0)] = .next us := ⟨_, rfl⟩
theorem witness_GenericReinitLeavesTheLines :
    pending (issuing .genericReinit (st true false 0)) = some .genericReinit := by decide
theorem witness_OnlyBoundaryRefusals :
    step (issuing (.bus 0x20140000) (st true true 0)) = .refused .fourByteAccess ∧
    step (issuing (.bus 0x001c0000) (st true true 0)) = .refused .outsideWindow ∧
    step (issuing (.byteWrite 0x1c 0) (st true true 0)) = .refused .outsideWindow := ⟨rfl, rfl, rfl⟩
theorem witness_ResetClearsLinesAlone :
    (st true true 0).params.env = .reference ∧ 0x15 < (st true true 0).params.winSize := by decide
theorem witness_SelectAndWriteInOneAccess :
    (st true true 0).params.env = .reference ∧ 0x14 < (st true true 0).params.winSize := by decide
theorem witness_SharedIndexHazard : (st true true 0x3f).cidx = 0x3f ∧ (st true true 0x3e).cidx = 0x3e := by decide
theorem witness_WideAccessPlacement : (st true true 0x3e).params.env = .reference ∧
    0x14 < (st true true 0x3e).params.winSize ∧ (st true true 0x3e).cidx = 0x3e ∧
    (∃ t, exec (.wr16 0x15 0xff20) (st true true 0x3e) = .next t) ∧ (∃ t, exec (.rd16 0x15) (st true true 0x3e) = .next t) ∧
    (∃ t, exec (.rd16 0x14) (st true true 0x3e) = .next t) :=
  ⟨rfl, by decide, rfl, ⟨_, rfl⟩, ⟨_, rfl⟩, ⟨_, rfl⟩⟩
theorem witness_PseudoOperations : (st true true 0x3f).params.env = .reference ∧
    0x15 < (st true true 0x3f).params.winSize ∧ (st true true 0x3f).cidx = 0x3f := by decide
theorem witness_StepRunsTheDecoded : ∃ t,
    pending (issuing (.byteRead 0x15) (st true true 0x3e)) = some (.byteRead 0x15) ∧
    present (.byteRead 0x15) (issuing (.byteRead 0x15) (st true true 0x3e)) = .word (.disp 0x23e 0x15 0) t ∧
    decode (.disp 0x23e 0x15 0) = .ok .scRd := ⟨_, by decide, rfl, by decide⟩
theorem witness_IdleKeepsTheState : (st true true 0).txns.length ≤ (st true true 0).pos := by decide
theorem witness_StepKeepsInvariant : Inv (issuing (.bus 0x5014303f) (st false false 0)) ∧
    ∃ t, step (issuing (.bus 0x5014303f) (st false false 0)) = .next t := ⟨⟨by decide, by decide, by decide⟩, ⟨_, rfl⟩⟩
theorem witness_LinesDoNotReachTheGenericSubsystem :
    SameButLines (issuing (.bus 0x10140000) (st false false 0x3e)) (issuing (.bus 0x10140000) (st true false 0x3e)) := rfl
theorem witness_LinesDependOnIndexAlone : ∃ t t',
    (issuing (.bus 0x5014303f) (st true false 0)).params.env = .reference ∧
    step (issuing (.bus 0x5014303f) (st true false 0)) = .next t ∧
    step (issuing (.bus 0x5014303f) { st true false 0 with draws := 7, gen := 9 }) = .next t' := ⟨_, _, rfl, rfl, rfl⟩

end Sys2Proof.Tests
end

section
/-! PROOFS. What each instruction that completes does, and the frame every instruction keeps (00_scope.md R10, 10_state.md R30). -/

namespace Sys2Proof.Machine

/-! ### Instructions that complete -/

/-- A bus access completes exactly if the framework delivers it (R47), with the effect it has then. -/
theorem delivered_next_iff {off : Byte} {s t u : State} :
    (if inWindow (muxOffset off) s then .next u else .refused .outsideWindow : Host.Outcome State Fault Refusal) = .next t ↔
      off.toNat < s.params.winSize ∧ t = u := by
  rw [← inWindow_muxOffset_iff]
  by_cases hw : inWindow (muxOffset off) s = true <;> simp [hw, eq_comm]

theorem exec_rd8_next_iff {off : Byte} {s t : State} :
    exec (.rd8 off) s = .next t ↔ off.toNat < s.params.winSize ∧ t = memRead8 off s := delivered_next_iff

theorem exec_rd16_next_iff {off : Byte} {s t : State} :
    exec (.rd16 off) s = .next t ↔ off.toNat < s.params.winSize ∧ t = memRead16 off s := delivered_next_iff

theorem exec_wr8_next_iff {off b : Byte} {s t : State} :
    exec (.wr8 off b) s = .next t ↔ off.toNat < s.params.winSize ∧ t = memWrite8 off b s := delivered_next_iff

theorem exec_wr16_next_iff {off : Byte} {v : Half} {s t : State} :
    exec (.wr16 off v) s = .next t ↔ off.toNat < s.params.winSize ∧ t = memWrite16 off v s := delivered_next_iff

/-! ### The frame of the shared operations -/

/-- `t` differs from `s` at most in the lines, the generic subsystem's state and the answer, with calls and draws only added. -/
structure Framed (s t : State) : Prop where
  params : t.params = s.params
  txns : t.txns = s.txns
  pos : t.pos = s.pos
  draws : s.draws ≤ t.draws
  calls : s.calls <+: t.calls

theorem Framed.trans {s t u : State} (h : Framed s t) (k : Framed t u) : Framed s u where
  params := k.params.trans h.params
  txns := k.txns.trans h.txns
  pos := k.pos.trans h.pos
  draws := h.draws.trans k.draws
  calls := h.calls.trans k.calls

theorem framed_answer (r : Answer) (s : State) : Framed s (answer r s) :=
  ⟨rfl, rfl, rfl, le_rfl, List.prefix_rfl⟩

/-- An operation followed by its answer keeps the frame if the operation does. -/
theorem Framed.answer {s t : State} (h : Framed s t) (r : Answer) : Framed s (answer r t) :=
  h.trans (framed_answer r t)

theorem framed_setLines (c d : Bool) (s : State) : Framed s (setLines c d s) :=
  ⟨rfl, rfl, rfl, le_rfl, List.prefix_rfl⟩

theorem framed_genericRead (o : Nat) (s : State) : Framed s (genericRead o s).2 :=
  ⟨rfl, rfl, rfl, Nat.le_succ _, List.prefix_append _ _⟩

theorem framed_genericWrite (o : Nat) (b : Byte) (s : State) : Framed s (genericWrite o b s) :=
  ⟨rfl, rfl, rfl, Nat.le_succ _, List.prefix_append _ _⟩

theorem framed_dread (o : Nat) (s : State) : Framed s (dread o s).2 := by
  obtain ⟨-, -, hparams, -, htxns, hpos⟩ := dread_frame o s
  obtain ⟨⟨cs, hcalls⟩, hdraws⟩ := dread_extends o s
  exact ⟨hparams, htxns, hpos, hdraws, cs, hcalls.symm⟩

theorem framed_dwrite (o : Nat) (b : Byte) (s : State) : Framed s (dwrite o b s) := by
  obtain ⟨hparams, -, htxns, hpos⟩ := dwrite_frame o b s
  obtain ⟨⟨cs, hcalls⟩, hdraws⟩ := dwrite_extends o b s
  exact ⟨hparams, htxns, hpos, hdraws, cs, hcalls.symm⟩

/-! ### The frame of an instruction -/

/-- The bus accesses are byte accesses in a row (R130 to R133), RESET and SC_WR set the lines, and the other dispatch operations call
the generic handler or nothing. -/
theorem exec_framed {i : Instr} {s t : State} (h : exec i s = .next t) : Framed s t := by
  cases i with
  | rd8 off =>
    obtain ⟨-, rfl⟩ := exec_rd8_next_iff.1 h
    exact (framed_dread _ s).answer _
  | rd16 off =>
    obtain ⟨-, rfl⟩ := exec_rd16_next_iff.1 h
    exact ((framed_dread _ s).trans (framed_dread _ _)).answer _
  | wr8 off b =>
    obtain ⟨-, rfl⟩ := exec_wr8_next_iff.1 h
    exact (framed_dwrite _ _ s).answer _
  | wr16 off v =>
    obtain ⟨-, rfl⟩ := exec_wr16_next_iff.1 h
    exact ((framed_dwrite _ _ s).trans (framed_dwrite _ _ _)).answer _
  | reset => cases h; exact (framed_setLines _ _ s).answer _
  | scRd => cases h; exact framed_answer _ s
  | scWr b => cases h; exact (framed_setLines _ _ s).answer _
  | dpGenRd j => cases h; exact (framed_genericRead _ s).answer _
  | dpGenWr j b => cases h; exact (framed_genericWrite _ _ s).answer _
  | genRd o => cases h; exact (framed_genericRead _ s).answer _
  | genWr o b => cases h; exact (framed_genericWrite _ _ s).answer _
  | nulRd o => cases h; exact framed_answer _ s
  | nulWr o b => cases h; exact framed_answer _ s

/-- Settles O36: every meaning is composed of operations that keep the frame, and the frame composes. -/
theorem instructionFrame : Obligations.InstructionFrame := by
  intro i s t h
  obtain ⟨hparams, htxns, hpos, hdraws, cs, hcalls⟩ := exec_framed h
  exact ⟨hparams, htxns, hpos, hdraws, cs, hcalls.symm⟩

end Sys2Proof.Machine
end

section
/-! PROOFS. The BUS decoder by the header nibble (30_encoding.md R61, R62), and the widths it takes and refuses (20_memory.md R43,
41_shim.md R134). -/

namespace Sys2Proof

/-! ### The widths -/

theorem widthRefused_eq {h : BitVec 4} {n : Nat} (hn : headerWidth h = some n) :
    widthRefused h = decide (n ∉ implementableWidths) := by simp only [widthRefused, hn]

theorem busError_eq {h : BitVec 4} {n : Nat} (hn : headerWidth h = some n) :
    busError h = if n ∈ validWidths then .fourByteAccess else .eightByteAccess := by simp only [busError, hn]

/-- A word of a width the block does not handle is rejected before the map is looked at. -/
theorem decodeBus_width_refused {t : BusWord} {n : Nat} (hn : headerWidth (busHeader t) = some n)
    (hi : n ∉ implementableWidths) :
    decodeBus t = .error (if n ∈ validWidths then .fourByteAccess else .eightByteAccess) := by
  have hr : widthRefused (busHeader t) = true := by simp [widthRefused_eq hn, hi]
  rw [decodeBus, if_pos hr, busError_eq hn]

/-- The headers of the implementable widths are those of the four accesses (R62). -/
theorem implementable_headers : ∀ h : BitVec 4, ∀ n ∈ implementableWidths, headerWidth h = some n →
    h = 0x0 ∧ n = 1 ∨ h = 0x1 ∧ n = 2 ∨ h = 0x4 ∧ n = 1 ∨ h = 0x5 ∧ n = 2 := by decide

/-! ### The map -/

theorem busRows_mask : ∀ r ∈ busRows, r.mask = 0xf0000000 := by decide

/-- Every row of the map masks all but the header, so the header alone chooses the row. -/
theorem busRows_find?_header (t : BusWord) :
    busRows.find? (fun r => t &&& r.mask == r.pattern) =
      busRows.find? (fun r => (busHeader t).setWidth 32 <<< 28 == r.pattern) := by
  have hbits : t &&& (0xf0000000 : BusWord) = (busHeader t).setWidth 32 <<< 28 := (header_match t _).2 rfl
  refine List.find?_congr fun r hr => ?_
  rw [busRows_mask r hr, hbits]

/-- A word whose header the map has a row for, of a width the block does not refuse, decodes by that row. -/
theorem decodeBus_of_row {t : BusWord} {h : BitVec 4} {r : BusRow} (ht : busHeader t = h) (hw : widthRefused h = false)
    (hr : busRows.find? (fun r => h.setWidth 32 <<< 28 == r.pattern) = some r) :
    decodeBus t = .ok (busInstr r.op t) := by
  simp [decodeBus, busRows_find?_header, ht, hw, hr]

theorem decodeBus_rd8 {t : BusWord} (ht : busHeader t = 0x0) : decodeBus t = .ok (.rd8 (busOff t)) :=
  decodeBus_of_row (r := ⟨0x00000000, 0xf0000000, .rd8⟩) ht (by decide) (by decide)

theorem decodeBus_rd16 {t : BusWord} (ht : busHeader t = 0x1) : decodeBus t = .ok (.rd16 (busOff t)) :=
  decodeBus_of_row (r := ⟨0x10000000, 0xf0000000, .rd16⟩) ht (by decide) (by decide)

theorem decodeBus_wr8 {t : BusWord} (ht : busHeader t = 0x4) :
    decodeBus t = .ok (.wr8 (busOff t) ((busData t).extractLsb' 0 8)) :=
  decodeBus_of_row (r := ⟨0x40000000, 0xf0000000, .wr8⟩) ht (by decide) (by decide)

theorem decodeBus_wr16 {t : BusWord} (ht : busHeader t = 0x5) : decodeBus t = .ok (.wr16 (busOff t) (busData t)) :=
  decodeBus_of_row (r := ⟨0x50000000, 0xf0000000, .wr16⟩) ht (by decide) (by decide)

/-- A word of a width the block handles decodes to an access of that width. -/
theorem decodeBus_width_accepted {t : BusWord} {n : Nat} (hn : headerWidth (busHeader t) = some n)
    (hi : n ∈ implementableWidths) : ∃ i, decodeBus t = .ok i ∧ Machine.accessWidth i = some n := by
  obtain ⟨ht, rfl⟩ | ⟨ht, rfl⟩ | ⟨ht, rfl⟩ | ⟨ht, rfl⟩ := implementable_headers _ n hi hn
  · exact ⟨_, decodeBus_rd8 ht, rfl⟩
  · exact ⟨_, decodeBus_rd16 ht, rfl⟩
  · exact ⟨_, decodeBus_wr8 ht, rfl⟩
  · exact ⟨_, decodeBus_wr16 ht, rfl⟩

namespace Machine

/-- A pending BUS word the decoder rejects is refused under the name of the rejection (R134). -/
theorem step_bus_rejected {s : State} {t : BusWord} {e : DecodeError} (hp : pending s = some (.bus t))
    (he : decodeBus t = .error e) : step s = .refused (refusalOf e) := by
  simp only [step, hp, present, runWord, decode, he]

/-- Settles O54: the width a header names decides, before the opcode map, whether the word is refused and under which name. -/
theorem accessWidths : Obligations.AccessWidths := by
  refine ⟨fun n => by simp [implementableWidths], fun n => by simp [validWidths], ?refused, ?accepted⟩
  case refused =>
    intro w n hn hi s hp
    rw [step_bus_rejected hp (decodeBus_width_refused hn hi)]
    split <;> rfl
  case accepted =>
    intro w n hn hi
    exact decodeBus_width_accepted hn hi

end Machine
end Sys2Proof
end

section
/-! PROOFS. The state at construction (10_state.md R34, 00_scope.md R10). -/

namespace Sys2Proof.Machine

theorem config_winSize_bounds : winSizeMin ≤ Config.winSize ∧ Config.winSize ≤ winSizeMax := by
  have hextra := Config.winExtra.isLt
  unfold Config.winSize winSizeMin winSizeMax
  omega

theorem config_busBits_bound : busBitsMin ≤ Config.busBits := Nat.le_add_left _ _

/-- Construction takes the parameters within R10's bounds, whatever `WIN_SIZE` and `BUS_BITS` are. -/
theorem reset_params_wf : State.reset.params.wf = true := by
  simp [Params.wf, State.reset, config_winSize_bounds, config_busBits_bound]

/-- Settles O50: the parameters are drawn within their bounds, and the host's list and the record of calls are empty. -/
theorem resetMeetsInvariant : Obligations.ResetMeetsInvariant :=
  ⟨reset_params_wf, Nat.le_refl 0, rfl⟩

end Sys2Proof.Machine
end

section
/-! PROOFS. A byte access presented to the mux is `DRead` or `DWrite` (30_encoding.md R65, R66; 40_dispatcher.md R100), and what a step
does for each kind of entry of the host's list. -/

namespace Sys2Proof

/-! ### The row a built key selects (R66) -/

/-- R66 read by fields: the operation of a key of direction `w`, class `c` and index `i`. -/
def dispOpOf (w : Bool) (c : OffClass) (i : Byte) : DispOp :=
  match c, w with
  | .data, false => if i = scRdIdx then .scRd else .dpGenRd
  | .data, true => if i = scWrIdx then .scWr else .dpGenWr
  | .generic, false => .genRd
  | .generic, true => .genWr
  | .null, false => .nulRd
  | .null, true => .nulWr

/-- The first row a built key matches is of the key's own class, with the operation its fields name. -/
theorem dispRows_find?_dispKey (w : Bool) (c : OffClass) (i : Byte) :
    (dispRows.find? (fun r => dispKey w c i &&& r.mask == r.pattern)).map (fun r => (r.cls, r.op)) =
      some (c, dispOpOf w c i) := by
  cases w <;> cases c <;> revert i <;> decide

/-- A key of its access's class is never rejected. -/
theorem decodeDisp_dispKey (w : Bool) (i : Byte) (o : Nat) (b : Byte) :
    decodeDisp (dispKey w (classify o) i) o b =
      .ok (dispInstr (dispOpOf w (classify o) i) (dispKey w (classify o) i) o b) := by
  obtain ⟨r, hfind, hrow⟩ := Option.map_eq_some_iff.1 (dispRows_find?_dispKey w (classify o) i)
  obtain ⟨hcls, hop⟩ := Prod.mk.inj hrow
  simp only [decodeDisp, hfind, hcls, hop, if_true]

namespace Machine

theorem decode_buildKey (w : Bool) (o : Nat) (b : Byte) (s : State) :
    decode (.disp (buildKey w o s).1 o b) =
      .ok (dispInstr (dispOpOf w (classify o) (if o = dataPort then s.cidx else 0)) (buildKey w o s).1 o b) := by
  rw [buildKey_key]
  exact decodeDisp_dispKey w _ o b

/-! ### The selected operation is the mux's own (R100) -/

theorem ne_dataPort_of_generic {o : Nat} (h : o ∈ genericSet) : o ≠ dataPort :=
  fun q => dataPort_not_generic (q ▸ h)

theorem ne_dataPort_of_null {o : Nat} (h : classify o = .null) : o ≠ dataPort := by
  rintro rfl
  cases h.symm.trans ((classify_data_iff dataPort).2 rfl)

/-- Whatever key a read is decoded with, the operation selected by its class and index is `DRead`. -/
theorem exec_selected_read (k : DispKey) (o : Nat) (b : Byte) (s : State) :
    exec (dispInstr (dispOpOf false (classify o) (if o = dataPort then s.cidx else 0)) k o b) (buildKey false o s).2 =
      .next (answer (.byte (dread o s).1) (dread o s).2) := by
  rw [buildKey_state]
  obtain ⟨rfl, h, e⟩ | ⟨rfl, h, e⟩ | ⟨h, e⟩ | ⟨h, e⟩ := dread_cases o s
  · rw [e, (classify_data_iff _).2 rfl]; simp only [dispOpOf, if_true, h]; rfl
  · rw [e, (classify_data_iff _).2 rfl]; simp only [dispOpOf, if_true, if_neg h]; rfl
  · have hne := ne_dataPort_of_generic h
    rw [e, (classify_generic_iff o).2 h, if_neg hne, if_neg hne]; rfl
  · have hne := ne_dataPort_of_null h
    rw [e, h, if_neg hne, if_neg hne]; rfl

/-- The same of a write and `DWrite`. -/
theorem exec_selected_write (k : DispKey) (o : Nat) (b : Byte) (s : State) :
    exec (dispInstr (dispOpOf true (classify o) (if o = dataPort then s.cidx else 0)) k o b) (buildKey true o s).2 =
      .next (answer .nothing (dwrite o b s)) := by
  rw [buildKey_state]
  obtain ⟨rfl, h, e⟩ | ⟨rfl, h, e⟩ | ⟨h, e⟩ | ⟨h, e⟩ := dwrite_cases o b s
  · rw [e, (classify_data_iff _).2 rfl]; simp only [dispOpOf, if_true, h]; rfl
  · rw [e, (classify_data_iff _).2 rfl]; simp only [dispOpOf, if_true, if_neg h]; rfl
  · have hne := ne_dataPort_of_generic h
    rw [e, (classify_generic_iff o).2 h, if_neg hne, if_neg hne]; rfl
  · have hne := ne_dataPort_of_null h
    rw [e, h, if_neg hne, if_neg hne]; rfl

/-! ### A step by the kind of its entry -/

theorem runWord_of {w : Fetched} {i : Instr} {t u : State} (hi : decode w = .ok i) (hu : exec i t = .next u) :
    runWord w t = .next (advance u) := by simp only [runWord, hi, hu]

theorem step_idle {s : State} (hp : pending s = none) : step s = .next s := by simp only [step, hp]

theorem step_action {s t : State} {op : HostOp} (hp : pending s = some op) (ht : present op s = .action t) :
    step s = .next (advance t) := by simp only [step, hp, ht]

theorem step_word {s t : State} {op : HostOp} {w : Fetched} (hp : pending s = some op)
    (hw : present op s = .word w t) : step s = runWord w t := by simp only [step, hp, hw]

theorem step_not_presented {s : State} {op : HostOp} {r : Refusal} (hp : pending s = some op)
    (hr : present op s = .refused r) : step s = .refused r := by simp only [step, hp, hr]

/-- A bus word that goes on was decoded and executed in the state it was presented in. -/
theorem step_bus_next {s t : State} {w : BusWord} (hp : pending s = some (.bus w)) (h : step s = .next t) :
    ∃ i u, decodeBus w = .ok i ∧ exec i s = .next u ∧ t = advance u :=
  runWord_next ((step_word hp rfl).symm.trans h)

/-- A byte access goes on exactly if it is in the window (R47), with what its key's operation leaves. -/
theorem step_byteAccess_next_iff {s t u : State} {op : HostOp} {w : Bool} {o : Nat} {b : Byte}
    (hp : pending s = some op) (hop : present op s = presentByte w o b s)
    (hrun : runWord (.disp (buildKey w o s).1 o b) (buildKey w o s).2 = .next u) :
    step s = .next t ↔ o < s.params.winSize ∧ t = u := by
  obtain ⟨hw, e⟩ | ⟨hw, e⟩ := presentByte_cases w o b s
  · rw [step_word hp (hop.trans e), hrun]; simp [hw, eq_comm]
  · rw [step_not_presented hp (hop.trans e)]; simp [hw]

theorem step_byteRead_next_iff {s t : State} {o : Nat} (hp : pending s = some (.byteRead o)) :
    step s = .next t ↔ o < s.params.winSize ∧ t = advance (answer (.byte (dread o s).1) (dread o s).2) :=
  step_byteAccess_next_iff hp rfl (runWord_of (decode_buildKey false o 0 s) (exec_selected_read _ o 0 s))

theorem step_byteWrite_next_iff {s t : State} {o : Nat} {b : Byte} (hp : pending s = some (.byteWrite o b)) :
    step s = .next t ↔ o < s.params.winSize ∧ t = advance (answer .nothing (dwrite o b s)) :=
  step_byteAccess_next_iff hp rfl (runWord_of (decode_buildKey true o b s) (exec_selected_write _ o b s))

/-- Settles O48: with the position at or past the end of the list nothing is pending. -/
theorem idleKeepsTheState : Obligations.IdleKeepsTheState :=
  fun _ h => step_idle (List.getElem?_eq_none h)

/-- Settles O37: a save and a restore are actions, with no word to decode. -/
theorem saveAndRestore : Obligations.SaveAndRestore :=
  ⟨fun _ hp => step_action hp rfl, fun _ _ _ hp => step_action hp rfl⟩

/-! ### Several adapters (R29) -/

/-- Everything a step of the whole that goes on can do. -/
theorem stepAdapter_next {k : Nat} {ss us : List State} (h : stepAdapter k ss = .next us) :
    (ss[k]? = none ∧ us = ss) ∨ ∃ s t, ss[k]? = some s ∧ step s = .next t ∧ us = ss.set k t := by
  unfold stepAdapter at h
  split at h
  · next hk => exact .inl ⟨hk, by cases h; rfl⟩
  · next s hk =>
    split at h
    · next t ht => exact .inr ⟨s, t, hk, ht, by cases h; rfl⟩
    · cases h
    · cases h

/-- Settles O38: the step replaces the `k`th entry of the list alone. -/
theorem adaptersAreIndependent : Obligations.AdaptersAreIndependent := by
  intro k ss us h
  obtain ⟨hk, rfl⟩ | ⟨s, t, hk, ht, rfl⟩ := stepAdapter_next h
  · exact ⟨rfl, fun _ _ => rfl, fun s hs => by simp [hk] at hs⟩
  · obtain ⟨hlt, -⟩ := List.getElem?_eq_some_iff.1 hk
    refine ⟨List.length_set, fun j hj => List.getElem?_set_ne hj.symm, fun s' hs' => ?_⟩
    obtain rfl : s = s' := Option.some.inj (hk.symm.trans hs')
    exact ⟨t, ht, List.getElem?_set_self hlt⟩

end Machine
end Sys2Proof
end

section
/-! PROOFS. The lines (10_state.md R23, R24): a step leaves those its events give, and so does a run. -/

namespace Sys2Proof.Machine

/-! ### What a step leaves in the lines -/

/-- A read has no event and a byte write the one of `dwrite_lines`; a 2-byte write's second byte writes on the lines its first left. -/
theorem exec_lines {i : Instr} {s t : State} (h : exec i s = .next t) :
    (t.clk, t.dat) = linesAfter (s.clk, s.dat) (instrEvents i s) := by
  cases i with
  | rd8 off =>
    obtain ⟨-, rfl⟩ := exec_rd8_next_iff.1 h
    obtain ⟨hclk, hdat, -⟩ := dread_frame (muxOffset off) s
    simp [memRead8, instrEvents, hclk, hdat]
  | rd16 off =>
    obtain ⟨-, rfl⟩ := exec_rd16_next_iff.1 h
    obtain ⟨hclk, hdat, -⟩ := dread_frame (muxOffset off) s
    obtain ⟨hclk', hdat', -⟩ := dread_frame (muxOffset off + 1) (dread (muxOffset off) s).2
    simp [memRead16, instrEvents, hclk, hdat, hclk', hdat']
  | wr8 off b =>
    obtain ⟨-, rfl⟩ := exec_wr8_next_iff.1 h
    have hb : lowByte b = b := BitVec.extractLsb'_eq_self
    simp [memWrite8, instrEvents, dwrite_lines, hb]
  | wr16 off v =>
    obtain ⟨-, rfl⟩ := exec_wr16_next_iff.1 h
    simp [memWrite16, instrEvents, dwrite_lines, linesAfter_append]
  | reset => cases h; rfl
  | scRd => cases h; rfl
  | scWr b => cases h; rfl
  | dpGenRd j => cases h; rfl
  | dpGenWr j b => cases h; rfl
  | genRd o => cases h; rfl
  | genWr o b => cases h; rfl
  | nulRd o => cases h; rfl
  | nulWr o b => cases h; rfl

theorem exec_keeps_lines {i : Instr} {s t : State} (hi : instrEvents i s = []) (h : exec i s = .next t) :
    t.clk = s.clk ∧ t.dat = s.dat := by
  simpa [hi] using exec_lines h

/-- Settles O35: none of the six reads has an event. -/
theorem readsKeepTheLines : Obligations.ReadsKeepTheLines := by
  rintro off i o s t (h | h | h | h | h | h) <;> exact exec_keeps_lines rfl h

theorem lineEvents_bus {s : State} {w : BusWord} {i : Instr} (hp : pending s = some (.bus w))
    (hi : decodeBus w = .ok i) : lineEvents s = instrEvents i s := by simp only [lineEvents, hp, hi]

/-- R23 for one step, by the kind of the entry presented. -/
theorem step_lines {s t : State} (h : step s = .next t) :
    (t.clk, t.dat) = linesAfter (s.clk, s.dat) (lineEvents s) := by
  cases hp : pending s with
  | none =>
    cases (step_idle hp).symm.trans h
    simp [lineEvents, hp]
  | some op =>
    cases op with
    | bus w =>
      obtain ⟨i, u, hi, hu, rfl⟩ := step_bus_next hp h
      simpa [lineEvents_bus hp hi] using exec_lines hu
    | byteRead o =>
      obtain ⟨-, rfl⟩ := (step_byteRead_next_iff hp).1 h
      obtain ⟨hclk, hdat, -⟩ := dread_frame o s
      simp [lineEvents, hp, hclk, hdat]
    | byteWrite o b =>
      obtain ⟨-, rfl⟩ := (step_byteWrite_next_iff hp).1 h
      simp [lineEvents, hp, dwrite_lines]
    | save =>
      cases (step_action hp rfl).symm.trans h
      simp [lineEvents, hp, saveLines]
    | restore c d =>
      cases (step_action hp rfl).symm.trans h
      simp [lineEvents, hp, restoreLines, linesAfter, LineEvent.lines]
    | genericReinit =>
      cases (step_action hp rfl).symm.trans h
      simp [lineEvents, hp]

/-! ### Runs -/

/-- A run of at least one step that goes on takes its first step and runs on. -/
theorem core_run_succ_next {n : Nat} {s t : State} (h : Host.Core.run core (n + 1) s = .next t) :
    ∃ u, step s = .next u ∧ Host.Core.run core n u = .next t := by
  cases hs : step s with
  | next u => exact ⟨u, rfl, (core_run_next hs).symm.trans h⟩
  | fault f => cases f
  | refused r => cases (core_run_refused hs).symm.trans h

theorem run_lines (n : Nat) {s t : State} (h : Host.Core.run core n s = .next t) :
    (t.clk, t.dat) = linesAfter (s.clk, s.dat) (lineHistory n s) := by
  induction n generalizing s with
  | zero => cases h; rfl
  | succ n ih =>
    obtain ⟨u, hu, hrun⟩ := core_run_succ_next h
    rw [lineHistory_next hu, linesAfter_append, ← step_lines hu, ih hrun]

/-- Settles O21, by induction on the number of steps; construction is one of the starts. -/
theorem linesHoldTheLastWrite : Obligations.LinesHoldTheLastWrite :=
  ⟨fun n _ _ h => run_lines n h, fun n _ _ h => run_lines n h⟩

/-! ### What a step that changed a line was -/

/-- A step that changes a line has an event. -/
theorem lineEvents_ne_nil {s t : State} (h : step s = .next t) (hne : t.clk ≠ s.clk ∨ t.dat ≠ s.dat) :
    lineEvents s ≠ [] := by
  intro hnil
  obtain ⟨hclk, hdat⟩ : t.clk = s.clk ∧ t.dat = s.dat := by simpa [hnil] using step_lines h
  exact hne.elim (· hclk) (· hdat)

theorem writeEvents_ne_nil_iff {o : Nat} {b : Byte} {s : State} :
    writeEvents o b s ≠ [] ↔ o = 0x15 ∧ s.cidx = 0x3f := by
  unfold writeEvents
  split
  · next hq => exact iff_of_true (List.cons_ne_nil _ _) hq
  · next hq => exact iff_of_false (fun hne => hne rfl) hq

theorem eq_of_muxOffset_eq {off off' : Byte} (h : muxOffset off = off'.toNat) : off = off' :=
  BitVec.eq_of_toNat_eq ((muxOffset_eq off).symm.trans h)

/-- The bus operations that have an event: R111's writers as the width adapter presents them. -/
theorem instrEvents_bus_ne_nil {op : BusOp} {w : BusWord} {s : State} (h : instrEvents (busInstr op w) s ≠ []) :
    busInstr op w = .reset ∨
    (∃ b, busInstr op w = .wr8 0x15 b ∧ s.cidx = 0x3f) ∨
    (∃ v, busInstr op w = .wr16 0x15 v ∧ s.cidx = 0x3f) ∨
    (∃ v, busInstr op w = .wr16 0x14 v ∧ (dwrite 0x14 (lowByte v) s).cidx = 0x3f) := by
  cases op with
  | rd8 => exact absurd rfl h
  | rd16 => exact absurd rfl h
  | reset => exact .inl rfl
  | wr8 =>
    obtain ⟨ho, hi⟩ := writeEvents_ne_nil_iff.1 h
    have hoff : busOff w = 0x15 := eq_of_muxOffset_eq ho
    exact .inr (.inl ⟨_, by rw [busInstr, hoff], hi⟩)
  | wr16 =>
    rw [busInstr, instrEvents, Ne, List.append_eq_nil_iff, not_and_or] at h
    obtain hlow | hhigh := h
    · obtain ⟨ho, hi⟩ := writeEvents_ne_nil_iff.1 hlow
      have hoff : busOff w = 0x15 := eq_of_muxOffset_eq ho
      exact .inr (.inr (.inl ⟨_, by rw [busInstr, hoff], hi⟩))
    · obtain ⟨ho, hi⟩ := writeEvents_ne_nil_iff.1 hhigh
      have ho' : muxOffset (busOff w) = 0x14 := Nat.succ.inj ho
      have hoff : busOff w = 0x14 := eq_of_muxOffset_eq ho'
      rw [ho'] at hi
      exact .inr (.inr (.inr ⟨_, by rw [busInstr, hoff], hi⟩))

/-- Whatever a BUS word decodes to is an operation of the opcode map (R62). -/
theorem decodeBus_ok {w : BusWord} {i : Instr} (h : decodeBus w = .ok i) : ∃ op, i = busInstr op w := by
  unfold decodeBus at h
  split at h
  · cases h
  · split at h
    · next r _ => exact ⟨r.op, by cases h; rfl⟩
    · cases h

/-- Settles O22: the step has an event, and each kind of entry has one only as listed. -/
theorem onlyWritersChangeLines : Obligations.OnlyWritersChangeLines := by
  intro s t h hne
  have hev := lineEvents_ne_nil h hne
  cases hp : pending s with
  | none => simp [lineEvents, hp] at hev
  | some op =>
    cases op with
    | bus w =>
      obtain ⟨i, -, hi, -⟩ := step_bus_next hp h
      rw [lineEvents_bus hp hi] at hev
      obtain ⟨op, rfl⟩ := decodeBus_ok hi
      obtain e | ⟨b, e, hc⟩ | ⟨v, e, hc⟩ | ⟨v, e, hc⟩ := instrEvents_bus_ne_nil hev
      · exact .inl ⟨w, rfl, hi.trans (congrArg _ e)⟩
      · exact .inr (.inr (.inr (.inl ⟨w, b, rfl, hi.trans (congrArg _ e), hc⟩)))
      · exact .inr (.inr (.inr (.inr (.inl ⟨w, v, rfl, hi.trans (congrArg _ e), hc⟩))))
      · exact .inr (.inr (.inr (.inr (.inr ⟨w, v, rfl, hi.trans (congrArg _ e), hc⟩))))
    | restore c d => exact .inr (.inl ⟨c, d, rfl⟩)
    | byteWrite o b =>
      simp only [lineEvents, hp] at hev
      obtain ⟨rfl, hc⟩ := writeEvents_ne_nil_iff.1 hev
      exact .inr (.inr (.inl ⟨b, rfl, hc⟩))
    | byteRead o => simp [lineEvents, hp] at hev
    | save => simp [lineEvents, hp] at hev
    | genericReinit => simp [lineEvents, hp] at hev

/-! ### The events depend on the index alone (D12) -/

/-- `GENERIC_INDEX_LAW` through the mux: a byte write selects an index at `INDEX_PORT` and nowhere else. -/
theorem dwrite_cidx_reference {s : State} (h : s.params.env = .reference) (o : Nat) (b : Byte) :
    (dwrite o b s).cidx = if o = indexPort then b else s.cidx := by
  have hindex : indexPort ∈ genericSet := by decide
  have hdata : dataPort ≠ indexPort := by decide
  obtain ⟨rfl, -, e⟩ | ⟨rfl, -, e⟩ | ⟨-, e⟩ | ⟨hnull, e⟩ := dwrite_cases o b s
  · simp [e, hdata]
  · simp [e, indexAfterWrite, h, hdata]
  · simp [e, indexAfterWrite, h]
  · have hne : o ≠ indexPort := by
      rintro rfl
      simp [(classify_generic_iff _).2 hindex] at hnull
    simp [e, hne]

theorem writeEvents_congr {s s' : State} (h : s.cidx = s'.cidx) (o : Nat) (b : Byte) :
    writeEvents o b s = writeEvents o b s' := by simp only [writeEvents, h]

theorem instrEvents_congr {s s' : State} (he : s.params.env = .reference) (he' : s'.params.env = .reference)
    (h : s.cidx = s'.cidx) (i : Instr) : instrEvents i s = instrEvents i s' := by
  cases i with
  | wr8 off b => exact writeEvents_congr h _ _
  | wr16 off v =>
    have hmid : (dwrite (muxOffset off) (firstByte v) s).cidx = (dwrite (muxOffset off) (firstByte v) s').cidx := by
      rw [dwrite_cidx_reference he, dwrite_cidx_reference he', h]
    rw [instrEvents, instrEvents, writeEvents_congr h, writeEvents_congr hmid]
  | _ => rfl

theorem lineEvents_congr {s s' : State} (he : s.params.env = .reference) (he' : s'.params.env = .reference)
    (h : s.cidx = s'.cidx) (hp : pending s = pending s') : lineEvents s = lineEvents s' := by
  unfold lineEvents
  rw [hp]
  split
  · split
    · exact instrEvents_congr he he' h _
    · rfl
  · exact writeEvents_congr h _ _
  · rfl
  · rfl

/-- Settles O52: the two states start from the same lines and have the same events. -/
theorem linesDependOnIndexAlone : Obligations.LinesDependOnIndexAlone := by
  intro s s' t t' he hparams hcidx hclk hdat htxns hpos ht ht'
  have hp : pending s = pending s' := by simp only [pending, htxns, hpos]
  have hev := lineEvents_congr he (hparams ▸ he) hcidx hp
  have hlines : (t.clk, t.dat) = (t'.clk, t'.dat) := by rw [step_lines ht, step_lines ht', hclk, hdat, hev]
  exact Prod.mk.inj hlines

end Sys2Proof.Machine
end

section
/-! PROOFS. The byte accesses of the mux and the width adapter's accesses as sequences of them (20_memory.md R40 to R47), and the step
that runs one (R49). -/

namespace Sys2Proof.Machine

/-! ### The step (R49) and the window (R47) -/

theorem runWord_refused {w : Fetched} {i : Instr} {t : State} {r : Refusal} (hi : decode w = .ok i)
    (hr : exec i t = .refused r) : runWord w t = .refused r := by simp only [runWord, hi, hr]

/-- Settles O47, by what the instruction comes to. -/
theorem stepRunsTheDecoded : Obligations.StepRunsTheDecoded := by
  intro s t op w i hp hw hi
  rw [step_word hp hw]
  cases he : exec i t with
  | next u => exact runWord_of hi he
  | fault f => cases f
  | refused r => exact runWord_refused hi he

/-- A bus access the framework does not deliver is refused, whatever its effect would have been. -/
theorem not_delivered {off : Byte} {s : State} (u : State) (h : s.params.winSize ≤ off.toNat) :
    (if inWindow (muxOffset off) s then .next u else .refused .outsideWindow : Host.Outcome State Fault Refusal) =
      .refused .outsideWindow :=
  if_neg fun hw => absurd ((inWindow_muxOffset_iff off s).1 hw) h.not_gt

theorem presentByte_outside {w : Bool} {o : Nat} {b : Byte} {s : State} (h : s.params.winSize ≤ o) :
    presentByte w o b s = .refused .outsideWindow := by
  obtain ⟨hw, -⟩ | ⟨-, e⟩ := presentByte_cases w o b s
  · exact absurd hw h.not_gt
  · exact e

/-- Settles O31: a bus access is refused by its own check, a byte access when it is presented. -/
theorem outsideWindowIsRefused : Obligations.OutsideWindowIsRefused := by
  constructor
  · intro off b v s h
    exact ⟨not_delivered _ h, not_delivered _ h, not_delivered _ h, not_delivered _ h⟩
  · rintro o b s h (hp | hp)
    · exact step_not_presented hp (presentByte_outside h)
    · exact step_not_presented hp (presentByte_outside h)

/-! ### The bus accesses in the window, by the mux's byte accesses (R130 to R133) -/

theorem exec_rd8_inside {off : Byte} {s : State} (h : off.toNat < s.params.winSize) :
    exec (.rd8 off) s = .next (answer (.byte (dread off.toNat s).1) (dread off.toNat s).2) :=
  exec_rd8_next_iff.2 ⟨h, (memRead8_eq off s).symm⟩

theorem exec_rd16_inside {off : Byte} {s : State} (h : off.toNat < s.params.winSize) :
    exec (.rd16 off) s = .next
      (answer (.half ((dread (off.toNat + 1) (dread off.toNat s).2).1 ++ (dread off.toNat s).1))
        (dread (off.toNat + 1) (dread off.toNat s).2).2) :=
  exec_rd16_next_iff.2 ⟨h, (memRead16_eq off s).symm⟩

theorem exec_wr8_inside {off : Byte} {s : State} (b : Byte) (h : off.toNat < s.params.winSize) :
    exec (.wr8 off b) s = .next (answer .nothing (dwrite off.toNat b s)) := by
  have hb : lowByte b = b := BitVec.extractLsb'_eq_self
  exact exec_wr8_next_iff.2 ⟨h, by rw [memWrite8_eq, hb]⟩

theorem exec_wr16_inside {off : Byte} {s : State} (v : Half) (h : off.toNat < s.params.winSize) :
    exec (.wr16 off v) s = .next
      (answer .nothing (dwrite (off.toNat + 1) (highByte v) (dwrite off.toNat (lowByte v) s))) :=
  exec_wr16_next_iff.2 ⟨h, (memWrite16_eq off v s).symm⟩

/-- Settles O29: the two bytes are the halves of the composed value. -/
theorem littleEndian : Obligations.LittleEndian := by
  intro off v s h
  exact ⟨⟨_, _, exec_rd16_inside h, rfl, BitVec.extractLsb'_append_eq_right, BitVec.extractLsb'_append_eq_left⟩,
    exec_wr16_inside v h⟩

/-! ### A 2-byte access inside the window and on its last offset (R41, R42) -/

theorem winSize_bounds {p : Params} (h : p.wf = true) : winSizeMin ≤ p.winSize ∧ p.winSize ≤ winSizeMax := by
  simp only [Params.wf, Bool.and_eq_true, decide_eq_true_eq] at h
  exact h.1

/-- The window ends at 0x100 at the latest, so the offset after one before its last does not wrap. -/
theorem toNat_succ_inside {off : Byte} {p : Params} (hwf : p.wf = true) (h : off.toNat + 1 < p.winSize) :
    (off + 1).toNat = off.toNat + 1 := by
  have hmax : p.winSize ≤ 0x100 := (winSize_bounds hwf).2
  exact BitVec.toNat_add_of_lt (h.trans_le hmax)

/-- Settles O27: the answer the first byte access gives does not reach the second, which meets the state the first left. -/
theorem wideAccessIsTwoByteAccesses : Obligations.WideAccessIsTwoByteAccesses := by
  intro off v s hwf h
  have hoff : off.toNat < s.params.winSize := Nat.lt_of_succ_lt h
  have hsucc := toNat_succ_inside hwf h
  constructor
  · have hsecond : (off + 1).toNat < (answer .nothing (dwrite off.toNat (lowByte v) s)).params.winSize := by
      rwa [answer_params, (framed_dwrite _ _ s).params, hsucc]
    refine ⟨_, exec_wr8_inside (lowByte v) hoff, ?_⟩
    rw [exec_wr8_inside _ hsecond, exec_wr16_inside v hoff, hsucc, dwrite_answer, answer_answer]
    rfl
  · have hsecond : (off + 1).toNat < (answer (.byte (dread off.toNat s).1) (dread off.toNat s).2).params.winSize := by
      rwa [answer_params, (framed_dread _ s).params, hsucc]
    refine ⟨_, _, _, _, exec_rd8_inside hoff, rfl, exec_rd8_inside hsecond, rfl, ?_⟩
    rw [exec_rd16_inside hoff, hsucc, dread_answer]
    rfl

/-- Settles O28: the offset after the window's last is past every register. -/
theorem lastOffsetHighByteIsNull : Obligations.LastOffsetHighByteIsNull := by
  intro off v s hwf h
  have hoff : off.toNat < s.params.winSize := h ▸ Nat.lt_succ_self _
  have hnull : classify (off.toNat + 1) = .null := classify_above (h ▸ (winSize_bounds hwf).1)
  constructor
  · rw [exec_wr16_inside v hoff, dwrite_null hnull, exec_wr8_inside _ hoff]
    rfl
  · refine ⟨_, _, exec_rd8_inside hoff, rfl, ?_⟩
    rw [exec_rd16_inside hoff, dread_null hnull]
    rfl

/-! ### The bus word above the access width (R46, D4) -/

/-- The bits of a value carried back on a bus at least as wide. -/
theorem getLsbD_setWidth_of_le {m n : Nat} (h : m ≤ n) (v : BitVec m) (k : Nat) :
    (v.setWidth n).getLsbD k = (decide (k < m) && v.getLsbD k) := by
  rw [BitVec.getLsbD_setWidth]
  by_cases hk : k < m
  · simp [hk, hk.trans_le h]
  · simp [BitVec.getLsbD_of_ge v k (Nat.le_of_not_lt hk)]

theorem lowByte_setWidth {m n : Nat} (h : 8 ≤ m) (v : BitVec n) : lowByte (v.setWidth m) = lowByte v :=
  BitVec.extractLsb'_setWidth_of_le h

theorem highByte_setWidth {m n : Nat} (h : 16 ≤ m) (v : BitVec n) : highByte (v.setWidth m) = highByte v :=
  BitVec.extractLsb'_setWidth_of_le h

/-- Settles O30: a read's value is zero-extended, and a write takes its bytes from the bits of its width. -/
theorem busWordAboveTheWidth : Obligations.BusWordAboveTheWidth := by
  refine ⟨fun n b h => ⟨_, rfl, ?byteRead⟩, fun n v h => ⟨_, rfl, ?wideRead⟩, fun n off v s => ?byteWrite,
    fun n off v s => ?wideWrite⟩
  case byteRead => exact getLsbD_setWidth_of_le (le_trans (by decide) h) b
  case wideRead => exact getLsbD_setWidth_of_le h v
  case byteWrite => rw [memWrite8_eq, memWrite8_eq, lowByte_setWidth le_rfl]
  case wideWrite => rw [memWrite16_eq, memWrite16_eq, lowByte_setWidth (by decide), highByte_setWidth le_rfl]

/-! ### Side effects of byte accesses (R45) -/

/-- A qualifying write leaves the lines of its byte, whatever they were, and the index that made it qualify (R103). -/
theorem dwrite_data_sc_fields (b : Byte) {s : State} (h : s.cidx = scWrIdx) :
    (dwrite dataPort b s).clk = writtenClk b ∧ (dwrite dataPort b s).dat = writtenDat b ∧
      (dwrite dataPort b s).cidx = scWrIdx := by
  simp [dwrite_data_sc b h, h]

/-- Settles O34: a null read changes nothing, a qualifying read leaves its index and the lines to be read again, and a qualifying
write leaves the lines of its byte each time. -/
theorem sideEffectsOfByteAccesses : Obligations.SideEffectsOfByteAccesses := by
  refine ⟨?nullRead, ?qualifyingRead, ?lines, ?qualifyingWrite⟩
  case nullRead =>
    intro o s h
    simp [dread_null h]
  case qualifyingRead =>
    intro s h
    have first : dread 0x15 s = (scRead s, record (.index 0x3e) s) := h ▸ dread_data_sc h
    have again : dread 0x15 (record (.index 0x3e) s) = _ := dread_data_sc h
    rw [first, again]
    exact ⟨rfl, rfl⟩
  case lines =>
    intro o s
    obtain ⟨hclk, hdat, -⟩ := dread_frame o s
    exact ⟨hclk, hdat⟩
  case qualifyingWrite =>
    intro b s h
    obtain ⟨hclk, hdat, hcidx⟩ := dwrite_data_sc_fields b h
    obtain ⟨hclk', hdat', -⟩ := dwrite_data_sc_fields b hcidx
    exact ⟨hclk'.trans hclk.symm, hdat'.trans hdat.symm⟩

end Sys2Proof.Machine
end

section
/-! PROOFS. The encodings (30_encoding.md R61 to R66, R73): both decoders read by fields on every word and key, and the encoder as
their inverse. -/

namespace Sys2Proof

/-! ### The BUS decoder by the header (R62) -/

theorem decodeBus_reset {t : BusWord} (ht : busHeader t = 0x8) : decodeBus t = .ok .reset :=
  decodeBus_of_row (r := ⟨0x80000000, 0xf0000000, .reset⟩) ht (by decide) (by decide)

/-- A word whose header the map has no row for is rejected under its header's name, of a refused width or not. -/
theorem decodeBus_of_no_row {t : BusWord}
    (hr : busRows.find? (fun r => (busHeader t).setWidth 32 <<< 28 == r.pattern) = none) :
    decodeBus t = .error (busError (busHeader t)) := by
  simp [decodeBus, busRows_find?_header, hr]

theorem busRows_find?_unmapped : ∀ h : BitVec 4, h ≠ 0x0 → h ≠ 0x1 → h ≠ 0x4 → h ≠ 0x5 → h ≠ 0x8 →
    busRows.find? (fun r => h.setWidth 32 <<< 28 == r.pattern) = none := by decide

theorem busError_unmapped : ∀ h : BitVec 4, h ≠ 0x0 → h ≠ 0x1 → h ≠ 0x4 → h ≠ 0x5 → h ≠ 0x8 →
    busError h = if h = 0x2 ∨ h = 0x6 then .fourByteAccess else if h = 0x3 ∨ h = 0x7 then .eightByteAccess
      else .reservedHeader := by decide

/-- The low byte of the data field is the low byte of the word (R63). -/
theorem busData_low (t : BusWord) : (busData t).extractLsb' 0 8 = t.extractLsb' 0 8 := by
  ext k hk
  simp [busData]

/-- Settles O3: each mapped header by its row, and the others by the width they name. -/
theorem busDecodeFollowsOpcodeMap : Obligations.BusDecodeFollowsOpcodeMap := by
  intro t
  by_cases h0 : busHeader t = 0x0
  · rw [if_pos h0, decodeBus_rd8 h0, busOff]
  by_cases h1 : busHeader t = 0x1
  · rw [if_neg h0, if_pos h1, decodeBus_rd16 h1, busOff]
  by_cases h4 : busHeader t = 0x4
  · rw [if_neg h0, if_neg h1, if_pos h4, decodeBus_wr8 h4, busData_low, busOff]
  by_cases h5 : busHeader t = 0x5
  · rw [if_neg h0, if_neg h1, if_neg h4, if_pos h5, decodeBus_wr16 h5, busOff, busData]
  by_cases h8 : busHeader t = 0x8
  · rw [if_neg h0, if_neg h1, if_neg h4, if_neg h5, if_pos h8, decodeBus_reset h8]
  rw [decodeBus_of_no_row (busRows_find?_unmapped _ h0 h1 h4 h5 h8), busError_unmapped _ h0 h1 h4 h5 h8,
    if_neg h0, if_neg h1, if_neg h4, if_neg h5, if_neg h8, apply_ite Except.error, apply_ite Except.error]

/-! ### The DISP decoder by the match table (R66) -/

/-- What the first matching row gives, one row at a time. -/
theorem elim_find?_cons {α β : Type} (p : α → Bool) (a : α) (l : List α) (e : β) (f : α → β) :
    ((a :: l).find? p).elim e f = if p a then f a else (l.find? p).elim e f := by
  rw [List.find?_cons]
  cases p a <;> rfl

theorem decodeDisp_eq_elim (k : DispKey) (o : Nat) (b : Byte) :
    decodeDisp k o b = (dispRows.find? (fun r => k &&& r.mask == r.pattern)).elim (.error .unbuiltClass)
      (fun r => if classify o = r.cls then .ok (dispInstr r.op k o b) else .error .classMismatch) := by
  unfold decodeDisp
  cases dispRows.find? (fun r => k &&& r.mask == r.pattern) <;> rfl

/-- Settles O5: the table is gone through row by row; the full mask of its first two rows compares whole keys. -/
theorem dispDecodeFollowsMatchTable : Obligations.DispDecodeFollowsMatchTable := by
  intro k o b
  have hfull : k &&& (0x7ff : DispKey) = k := BitVec.and_allOnes
  have hscRd : (0x200 ||| scRdIdx.setWidth 11 : DispKey) = 0x23e := rfl
  have hscWr : (0x600 ||| scWrIdx.setWidth 11 : DispKey) = 0x63f := rfl
  simp only [decodeDisp_eq_elim, dispRows, elim_find?_cons, List.find?_nil, Option.elim_none, beq_iff_eq, hfull, hscRd,
    hscWr, dispInstr, dispIndex]

/-- The operation of R66 for a byte access at `o` of direction `w` whose key has class `c` and index `i`. -/
def dispatched (w : Bool) (c : OffClass) (i : Byte) (o : Nat) (b : Byte) : Instr :=
  match c, w with
  | .data, false => if i = scRdIdx then .scRd else .dpGenRd i
  | .data, true => if i = scWrIdx then .scWr b else .dpGenWr i b
  | .generic, false => .genRd o
  | .generic, true => .genWr o b
  | .null, false => .nulRd o
  | .null, true => .nulWr o b

theorem dispInstr_dispOpOf (w : Bool) (c : OffClass) (i : Byte) (o : Nat) (b : Byte) :
    dispInstr (dispOpOf w c i) (dispKey w c i) o b = dispatched w c i o b := by
  cases c with
  | data =>
    cases w with
    | false => by_cases h : i = scRdIdx <;> simp [dispOpOf, dispatched, dispInstr, h]
    | true => by_cases h : i = scWrIdx <;> simp [dispOpOf, dispatched, dispInstr, h]
  | generic => cases w <;> rfl
  | null => cases w <;> rfl

/-- A key of its access's class decodes to the operation its fields name (R65, R66). -/
theorem decodeDisp_of_class {c : OffClass} {o : Nat} (hc : classify o = c) (w : Bool) (i b : Byte) :
    decodeDisp (dispKey w c i) o b = .ok (dispatched w c i o b) := by
  subst hc
  rw [decodeDisp_dispKey, dispInstr_dispOpOf]

/-! ### Decoding what was encoded (R63, R65) -/

theorem classify_dataPort : classify dataPort = .data := (Machine.classify_data_iff dataPort).2 rfl

/-- Settles O2, row by row: a bus word by its header and fields, a dispatch key by its class, where the operand conditions keep the
index and the offset from selecting another row. -/
theorem decodeEncodeRoundTrip : Obligations.DecodeEncodeRoundTrip := by
  intro i hwf
  cases i with
  | rd8 off => exact (decodeBus_rd8 (busHeader_busWord _ _ _)).trans (by rw [busOff_busWord])
  | rd16 off => exact (decodeBus_rd16 (busHeader_busWord _ _ _)).trans (by rw [busOff_busWord])
  | wr8 off b =>
    have hb : (b.setWidth 16).extractLsb' 0 8 = b := by
      rw [BitVec.extractLsb'_setWidth_of_le (by decide), BitVec.extractLsb'_eq_self]
    exact (decodeBus_wr8 (busHeader_busWord _ _ _)).trans (by rw [busOff_busWord, busData_busWord, hb])
  | wr16 off v =>
    exact (decodeBus_wr16 (busHeader_busWord _ _ _)).trans (by rw [busOff_busWord, busData_busWord])
  | reset => exact decodeBus_reset (busHeader_busWord _ _ _)
  | scRd => exact decodeDisp_of_class classify_dataPort false scRdIdx 0
  | scWr b => exact decodeDisp_of_class classify_dataPort true scWrIdx b
  | dpGenRd i =>
    have hi : i ≠ scRdIdx := bne_iff_ne.1 hwf
    exact (decodeDisp_of_class classify_dataPort false i 0).trans (by rw [dispatched, if_neg hi])
  | dpGenWr i b =>
    have hi : i ≠ scWrIdx := bne_iff_ne.1 hwf
    exact (decodeDisp_of_class classify_dataPort true i b).trans (by rw [dispatched, if_neg hi])
  | genRd o => exact decodeDisp_of_class (beq_iff_eq.1 hwf) false 0 0
  | genWr o b => exact decodeDisp_of_class (beq_iff_eq.1 hwf) true 0 b
  | nulRd o => exact decodeDisp_of_class (beq_iff_eq.1 hwf) false 0 0
  | nulWr o b => exact decodeDisp_of_class (beq_iff_eq.1 hwf) true 0 b

/-! ### Encoding what was decoded (R63) -/

/-- The header of an operation of the BUS map (R62). -/
def busOpHeader : BusOp → BitVec 4
  | .rd8 => 0x0
  | .rd16 => 0x1
  | .wr8 => 0x4
  | .wr16 => 0x5
  | .reset => 0x8

theorem busRows_pattern : ∀ r ∈ busRows, r.pattern = (busOpHeader r.op).setWidth 32 <<< 28 := by decide

/-- A word that decodes has the header of the operation whose operands it gives. -/
theorem decodeBus_ok_header {t : BusWord} {i : Instr} (h : decodeBus t = .ok i) :
    ∃ op, busHeader t = busOpHeader op ∧ i = busInstr op t := by
  unfold decodeBus at h
  split at h
  · cases h
  · split at h
    · next r hr =>
      have hmem := List.mem_of_find?_eq_some hr
      have hmatch : t &&& r.mask = r.pattern := by simpa using List.find?_some hr
      rw [busRows_mask r hmem, busRows_pattern r hmem] at hmatch
      exact ⟨r.op, (header_match t _).1 hmatch, by cases h; rfl⟩
    · cases h

/-- Masking a word field by field. -/
theorem and_busWord (t : BusWord) (h : BitVec 4) (off : Byte) (data : Half) :
    t &&& busWord h off data = busWord (busHeader t &&& h) (busOff t &&& off) (busData t &&& data) := by
  refine BitVec.eq_of_getLsbD_eq fun k hk => ?_
  simp only [busWord, busHeader, busOff, busData, BitVec.getLsbD_and, BitVec.getLsbD_append,
    BitVec.getLsbD_extractLsb']
  interval_cases k <;> simp

/-- The write data of WR8, kept in place (R63). -/
theorem lowByte_in_place (v : Half) : (v.extractLsb' 0 8).setWidth 16 = v &&& 0x00ff := by
  ext k hk
  simp only [BitVec.getElem_setWidth, BitVec.getLsbD_extractLsb', BitVec.getElem_and]
  interval_cases k <;> simp [BitVec.getLsbD_eq_getElem]

/-- A word's header, offset and masked data put together again are the word without the other bits. -/
theorem busWord_eq_and {t : BusWord} {h : BitVec 4} {data : Half} (mask : Half) (ht : busHeader t = h)
    (hd : busData t &&& mask = data) : busWord h (busOff t) data = t &&& busWord 0xf 0xff mask := by
  have hheader : h &&& 0xf = h := BitVec.and_allOnes
  have hoff : busOff t &&& 0xff = busOff t := BitVec.and_allOnes
  rw [and_busWord, ht, hd, hheader, hoff]

/-- The canonical word of what a word of `op`'s header stands for is that word without the bits `op` ignores. -/
theorem encode_busInstr {op : BusOp} {t : BusWord} (h : busHeader t = busOpHeader op) :
    encode (busInstr op t) = .bus (t &&& Machine.careMask (busInstr op t)) := by
  cases op with
  | rd8 => exact congrArg Fetched.bus (busWord_eq_and 0 h BitVec.and_zero)
  | rd16 => exact congrArg Fetched.bus (busWord_eq_and 0 h BitVec.and_zero)
  | wr8 => exact congrArg Fetched.bus (busWord_eq_and 0x00ff h (lowByte_in_place _).symm)
  | wr16 => exact congrArg Fetched.bus (busWord_eq_and 0xffff h BitVec.and_allOnes)
  | reset => exact congrArg Fetched.bus ((header_match t 0x8).2 h).symm

/-- A bus transaction admits every operand (R42, R63). -/
theorem busInstr_wf (op : BusOp) (t : BusWord) : (busInstr op t).wf = true := by cases op <;> rfl

/-- The canonical word of a well-formed operation decodes to it. -/
theorem decodeBus_of_encode {i : Instr} {t : BusWord} (hwf : i.wf = true) (he : encode i = .bus t) :
    decodeBus t = .ok i := by
  have hround := decodeEncodeRoundTrip i hwf
  rwa [he] at hround

/-- Settles O4: the masked word is the canonical one, which the round trip decodes. -/
theorem busReencodeIsCanonical : Obligations.BusReencodeIsCanonical := by
  intro t i h
  obtain ⟨op, hheader, rfl⟩ := decodeBus_ok_header h
  have hencode := encode_busInstr hheader
  exact ⟨hencode, decodeBus_of_encode (busInstr_wf op t) hencode⟩

end Sys2Proof
end

section
/-! PROOFS. The offset classes and the keys built for them (30_encoding.md R64, R65), the canonical words and keys (R73), the byte
layouts of the lines (R67, R68) and the pseudo-operations (R72). -/

namespace Sys2Proof.Machine

/-! ### REGION and the keys of byte accesses (R64, R65) -/

theorem classify_null_iff (o : Nat) : classify o = .null ↔ o ∉ genericSet ∧ o ≠ dataPort := by
  rw [← classify_generic_iff, Ne, ← classify_data_iff]
  cases classify o <;> decide

/-- Settles O6: the three classes by the offsets they have, and their codes by evaluation. -/
theorem regionDecode : Obligations.RegionDecode :=
  ⟨classify_generic_iff, classify_data_iff, classify_null_iff, rfl, rfl, rfl, fun c => by cases c <;> decide⟩

theorem buildKey_data (w : Bool) (s : State) : (buildKey w dataPort s).1 = dispKey w .data s.cidx := by
  rw [buildKey_key, classify_dataPort, if_pos rfl]

theorem buildKey_not_data {o : Nat} (h : o ≠ dataPort) (w : Bool) (s : State) :
    (buildKey w o s).1 = dispKey w (classify o) 0 := by
  rw [buildKey_key, if_neg h]

/-- Settles O9, by the class of the offset: a key is built of the access's own class, and its index is the one sampled. -/
theorem builtKeysDecode : Obligations.BuiltKeysDecode := by
  intro o b s
  cases hc : classify o with
  | data =>
    obtain rfl := (classify_data_iff o).1 hc
    rw [buildKey_data, buildKey_data]
    exact ⟨decodeDisp_of_class hc false s.cidx b, decodeDisp_of_class hc true s.cidx b⟩
  | generic =>
    have hmem := (classify_generic_iff o).1 hc
    have hne : o ≠ 0x15 := ne_dataPort_of_generic hmem
    rw [buildKey_not_data hne, buildKey_not_data hne, hc, if_neg hne, if_pos hmem, if_neg hne, if_pos hmem]
    exact ⟨decodeDisp_of_class hc false 0 b, decodeDisp_of_class hc true 0 b⟩
  | null =>
    obtain ⟨hmem, hdata⟩ := (classify_null_iff o).1 hc
    have hne : o ≠ 0x15 := hdata
    rw [buildKey_not_data hne, buildKey_not_data hne, hc, if_neg hne, if_neg hmem, if_neg hne, if_neg hmem]
    exact ⟨decodeDisp_of_class hc false 0 b, decodeDisp_of_class hc true 0 b⟩

/-! ### The byte layouts of the lines (R67, R68) -/

/-- A line shifted to bit `n` of a byte is that bit and no other. -/
theorem lineByte_shift_getLsbD (l : Bool) {n : Nat} (hn : n < 8) (k : Nat) :
    (lineByte l <<< n).getLsbD k = (decide (k = n) && l) := by
  rw [BitVec.getLsbD_shiftLeft, lineByte, BitVec.getLsbD_setWidth, BitVec.getLsbD_ofBool]
  by_cases hk : k = n
  · simp [hk, hn]
  · have hbit : k < n ∨ k - n ≠ 0 := by omega
    obtain h | h := hbit <;> simp [hk, h]

/-- Two lines in one byte, as both views hold them. -/
theorem linePair_getLsbD (x y : Bool) {m n : Nat} (hm : m < 8) (hn : n < 8) (hmn : m ≠ n) (k : Nat) :
    (lineByte x <<< m ||| lineByte y <<< n).getLsbD k = if k = m then x else if k = n then y else false := by
  rw [BitVec.getLsbD_or, lineByte_shift_getLsbD x hm, lineByte_shift_getLsbD y hn]
  split_ifs with hkm hkn
  · simp [hkm, hmn]
  · simp [hkn, hmn.symm]
  · simp [hkm, hkn]

theorem readView_getLsbD (c d : Bool) (k : Nat) :
    (readView c d).getLsbD k = if k = 3 then d else if k = 2 then c else false :=
  linePair_getLsbD d c (by decide) (by decide) (by decide) k

theorem writeView_getLsbD (c d : Bool) (k : Nat) :
    (writeView c d).getLsbD k = if k = 5 then c else if k = 4 then d else false :=
  linePair_getLsbD c d (by decide) (by decide) (by decide) k

theorem writtenClk_writeView (c d : Bool) : writtenClk (writeView c d) = c := writeView_getLsbD c d 5

theorem writtenDat_writeView (c d : Bool) : writtenDat (writeView c d) = d := writeView_getLsbD c d 4

/-- Settles O8: each view holds the two lines at its two bits, so reading a line back from the write view gives it. -/
theorem lineViews : Obligations.LineViews :=
  ⟨fun _ => ⟨rfl, rfl⟩, readView_getLsbD, by decide, fun c d => ⟨writtenClk_writeView c d, writtenDat_writeView c d⟩⟩

/-! ### The pseudo-operations (R72) -/

theorem execAll_cons_next {i : Instr} {is : List Instr} {s t : State} (h : exec i s = .next t) :
    execAll (i :: is) s = execAll is t := by simp only [execAll, h]

theorem execAll_singleton_next {i : Instr} {s t : State} (h : exec i s = .next t) : execAll [i] s = .next t :=
  execAll_cons_next h

theorem lowByte_joinBytes (first second : Byte) : lowByte (joinBytes first second) = first :=
  BitVec.extractLsb'_append_eq_right

theorem highByte_joinBytes (first second : Byte) : highByte (joinBytes first second) = second :=
  BitVec.extractLsb'_append_eq_left

theorem indexPort_generic : indexPort ∈ genericSet := by decide

/-- A byte written at `INDEX_PORT` is the index, under `GENERIC_INDEX_LAW`. -/
theorem dwrite_indexPort_cidx {s : State} (h : s.params.env = .reference) (b : Byte) :
    (dwrite indexPort b s).cidx = b := by
  rw [dwrite_cidx_reference h, if_pos rfl]

/-- Selecting an index leaves the lines. -/
theorem dwrite_indexPort_lines (b : Byte) (s : State) :
    (dwrite indexPort b s).clk = s.clk ∧ (dwrite indexPort b s).dat = s.dat := by
  rw [dwrite_generic indexPort_generic]
  exact ⟨rfl, rfl⟩

/-- SELIDX runs as a byte write at `INDEX_PORT`. -/
theorem exec_selIdx {s : State} (h : indexPort < s.params.winSize) (i : Byte) :
    exec (.wr8 (BitVec.ofNat 8 indexPort) i) s = .next (answer .nothing (dwrite indexPort i s)) :=
  exec_wr8_inside i h

/-- SETLINES runs as a byte write of the write index at `INDEX_PORT` and one of the lines at the data port. -/
theorem exec_setLinesWide {s : State} (h : indexPort < s.params.winSize) (b : Byte) :
    exec (.wr16 (BitVec.ofNat 8 indexPort) (joinBytes scWrIdx b)) s =
      .next (answer .nothing (dwrite dataPort b (dwrite indexPort scWrIdx s))) := by
  rw [exec_wr16_inside (off := BitVec.ofNat 8 indexPort) _ h, lowByte_joinBytes, highByte_joinBytes]
  rfl

/-- RD8 at the data port under the read index answers the lines and calls no handler (R102). -/
theorem exec_rd8_data_sc {s : State} (h : dataPort < s.params.winSize) (hc : s.cidx = scRdIdx) :
    exec (.rd8 (BitVec.ofNat 8 dataPort)) s = .next (answer (.byte (scRead s)) (record (.index s.cidx) s)) := by
  have hread : dread (BitVec.ofNat 8 dataPort).toNat s = _ := dread_data_sc hc
  rw [exec_rd8_inside (off := BitVec.ofNat 8 dataPort) h, hread]

/-- Settles O46: an index is selected by a byte write at `INDEX_PORT`, and the lines are met at the data port under the index
selected or found. -/
theorem pseudoOperations : Obligations.PseudoOperations := by
  intro s henv hdata
  have hindex : indexPort < s.params.winSize := Nat.lt_of_succ_lt hdata
  refine ⟨fun i => ?selIdx, fun c d => ?setLines, fun c d hc => ?setLinesByte, ?getLines⟩
  case selIdx =>
    exact ⟨_, execAll_singleton_next (exec_selIdx hindex i), dwrite_indexPort_cidx henv i, dwrite_indexPort_lines i s⟩
  case setLines =>
    obtain ⟨hclk, hdat, hcidx⟩ := dwrite_data_sc_fields (writeView c d) (dwrite_indexPort_cidx henv scWrIdx)
    exact ⟨_, execAll_singleton_next (exec_setLinesWide hindex _), hcidx, hclk.trans (writtenClk_writeView c d),
      hdat.trans (writtenDat_writeView c d)⟩
  case setLinesByte =>
    obtain ⟨hclk, hdat, hcidx⟩ := dwrite_data_sc_fields (writeView c d) hc
    exact ⟨_, execAll_singleton_next (exec_wr8_inside _ hdata), hcidx, hclk.trans (writtenClk_writeView c d),
      hdat.trans (writtenDat_writeView c d)⟩
  case getLines =>
    have hcidx := dwrite_indexPort_cidx henv scRdIdx
    obtain ⟨hclk, hdat⟩ := dwrite_indexPort_lines scRdIdx s
    have hwin : dataPort < (answer .nothing (dwrite indexPort scRdIdx s)).params.winSize := by
      rwa [answer_params, (framed_dwrite _ _ s).params]
    have hvalue : scRead (answer .nothing (dwrite indexPort scRdIdx s)) = readView s.clk s.dat := by
      rw [scRead, answer_clk, answer_dat, hclk, hdat]
    exact ⟨_, (execAll_cons_next (exec_selIdx hindex scRdIdx)).trans (execAll_singleton_next (exec_rd8_data_sc hwin hcidx)),
      congrArg Answer.byte hvalue, hcidx⟩

/-! ### The spec's words and keys (R73) -/

/-- The key of a byte access as a literal, decoded to the operation of its fields. -/
theorem decodeDisp_of_key {k : DispKey} {w : Bool} {i : Byte} {o : Nat} (hk : dispKey w (classify o) i = k) (b : Byte) :
    decodeDisp k o b = .ok (dispatched w (classify o) i o b) :=
  hk ▸ decodeDisp_of_class rfl w i b

/-- Settles O1: the words by the round trip from their encodings, the keys by the fields they are built of. -/
theorem specWordsDecode : Obligations.SpecWordsDecode := by
  refine ⟨⟨by decide, rfl, decodeBus_of_encode rfl rfl⟩, ⟨by decide, rfl, decodeBus_of_encode rfl rfl⟩,
    ⟨by decide, rfl, decodeBus_of_encode rfl rfl⟩, ⟨by decide, rfl, decodeBus_of_encode rfl rfl⟩,
    ⟨by decide, rfl, decodeBus_of_encode rfl rfl⟩, ⟨rfl, rfl, decodeBus_of_encode rfl rfl⟩,
    fun s h => ?scWrKey, decodeDisp_of_key (w := true) (i := 0x3f) rfl,
    fun s h => ?scRdKey, decodeDisp_of_key (w := false) (i := 0x3e) rfl,
    fun s h => ?dpGenRdKey, decodeDisp_of_key (w := false) (i := 0x3f) rfl,
    fun s => ?genWrKey, decodeDisp_of_key (w := true) (i := 0) rfl,
    fun s => ?nulRdKey, decodeDisp_of_key (w := false) (i := 0) rfl⟩
  case scWrKey => exact (buildKey_data true s).trans (by rw [h]; rfl)
  case scRdKey => exact (buildKey_data false s).trans (by rw [h]; rfl)
  case dpGenRdKey => exact (buildKey_data false s).trans (by rw [h]; rfl)
  case genWrKey => exact buildKey_not_data (by decide) true s
  case nulRdKey => exact buildKey_not_data (by decide) false s

end Sys2Proof.Machine
end

section
/-! PROOFS. The round trip of the lines through the data port, across any run with no writer in it (40_dispatcher.md R110). -/

namespace Sys2Proof.Machine

theorem run_keeps_lines {n : Nat} {s t : State} (h : Host.Core.run core n s = .next t) (hnil : lineHistory n s = []) :
    t.clk = s.clk ∧ t.dat = s.dat := by
  simpa [hnil] using run_lines n h

/-- A qualifying read answers the read view of the lines (R102). -/
theorem dread_data_sc_value {s : State} (h : s.cidx = scRdIdx) : (dread dataPort s).1 = readView s.clk s.dat := by
  rw [dread_data_sc h, scRead]

/-- Settles O20: the write leaves its lines, the run keeps them, by `run_lines`' induction over the steps, and the read answers them. -/
theorem linesRoundTrip : Obligations.LinesRoundTrip := by
  intro n c d s t hwrite hrun hnil hread
  obtain ⟨hclk, hdat, -⟩ := dwrite_data_sc_fields (writeView c d) hwrite
  obtain ⟨hclk', hdat'⟩ := run_keeps_lines hrun hnil
  have htclk : t.clk = c := hclk'.trans (hclk.trans (writtenClk_writeView c d))
  have htdat : t.dat = d := hdat'.trans (hdat.trans (writtenDat_writeView c d))
  have hvalue : (dread 0x15 t).1 = readView c d := htclk ▸ htdat ▸ dread_data_sc_value hread
  exact ⟨hvalue, fun k => hvalue ▸ readView_getLsbD c d k⟩

end Sys2Proof.Machine
end

section
/-! PROOFS. What a step adds to the record of calls, and that every step keeps the invariant (40_dispatcher.md R101 to R109, 10_state.md
R30). -/

namespace Sys2Proof.Machine

/-! ### Calls that keep the discipline -/

/-- `t` has `s`'s record of calls with calls added that keep the discipline by themselves, whatever was called before. -/
def AddsOrderedCalls (s t : State) : Prop := ∃ cs, t.calls = s.calls ++ cs ∧ callsOk none cs = true

theorem addsOrderedCalls_of_calls_eq {s t : State} (h : t.calls = s.calls) : AddsOrderedCalls s t :=
  ⟨[], by rw [h, List.append_nil], rfl⟩

theorem AddsOrderedCalls.trans {s t u : State} (h : AddsOrderedCalls s t) (k : AddsOrderedCalls t u) :
    AddsOrderedCalls s u := by
  obtain ⟨cs, hcalls, hok⟩ := h
  obtain ⟨cs', hcalls', hok'⟩ := k
  refine ⟨cs ++ cs', by rw [hcalls', hcalls, List.append_assoc], ?_⟩
  rw [callsOk_append, hok, callsOk_after _ hok', Bool.and_true]

theorem AddsOrderedCalls.callsOk {s t : State} (h : AddsOrderedCalls s t) (hs : callsOk none s.calls = true) :
    callsOk none t.calls = true := by
  obtain ⟨cs, hcalls, hok⟩ := h
  rw [hcalls, callsOk_append, hs, callsOk_after _ hok, Bool.and_true]

theorem dread_addsOrderedCalls (o : Nat) (s : State) : AddsOrderedCalls s (dread o s).2 := dread_calls o s

theorem dwrite_addsOrderedCalls (o : Nat) (b : Byte) (s : State) : AddsOrderedCalls s (dwrite o b s) := dwrite_calls o b s

/-- A bus operation calls the generic subsystem through the mux alone (R130 to R133, R170). The dispatch operations are not among
these: DP_GEN_RD and DP_GEN_WR rely on the index sampled with their key (R65). -/
theorem exec_busInstr_addsOrderedCalls {op : BusOp} {w : BusWord} {s t : State} (h : exec (busInstr op w) s = .next t) :
    AddsOrderedCalls s t := by
  cases op with
  | rd8 =>
    obtain ⟨-, rfl⟩ := exec_rd8_next_iff.1 h
    exact dread_addsOrderedCalls _ s
  | rd16 =>
    obtain ⟨-, rfl⟩ := exec_rd16_next_iff.1 h
    exact (dread_addsOrderedCalls _ s).trans (dread_addsOrderedCalls _ _)
  | wr8 =>
    obtain ⟨-, rfl⟩ := exec_wr8_next_iff.1 h
    exact dwrite_addsOrderedCalls _ _ s
  | wr16 =>
    obtain ⟨-, rfl⟩ := exec_wr16_next_iff.1 h
    exact (dwrite_addsOrderedCalls _ _ s).trans (dwrite_addsOrderedCalls _ _ _)
  | reset => cases h; exact addsOrderedCalls_of_calls_eq rfl

/-! ### The step -/

theorem framed_genericReinit (s : State) : Framed s (genericReinit s) :=
  ⟨rfl, rfl, rfl, Nat.le_succ _, List.prefix_rfl⟩

/-- What every entry of the host's list has in common: its effect keeps the frame and the discipline, and then the position moves on. -/
theorem step_pending_next {s t : State} {op : HostOp} (hp : pending s = some op) (h : step s = .next t) :
    ∃ u, t = advance u ∧ Framed s u ∧ AddsOrderedCalls s u := by
  cases op with
  | bus w =>
    obtain ⟨i, u, hi, hu, rfl⟩ := step_bus_next hp h
    obtain ⟨bop, rfl⟩ := decodeBus_ok hi
    exact ⟨u, rfl, exec_framed hu, exec_busInstr_addsOrderedCalls hu⟩
  | byteRead o =>
    obtain ⟨-, rfl⟩ := (step_byteRead_next_iff hp).1 h
    exact ⟨_, rfl, (framed_dread o s).answer _, dread_addsOrderedCalls o s⟩
  | byteWrite o b =>
    obtain ⟨-, rfl⟩ := (step_byteWrite_next_iff hp).1 h
    exact ⟨_, rfl, (framed_dwrite o b s).answer _, dwrite_addsOrderedCalls o b s⟩
  | save =>
    cases (step_action hp rfl).symm.trans h
    exact ⟨_, rfl, framed_answer _ s, addsOrderedCalls_of_calls_eq rfl⟩
  | restore c d =>
    cases (step_action hp rfl).symm.trans h
    exact ⟨_, rfl, (framed_setLines c d s).answer _, addsOrderedCalls_of_calls_eq rfl⟩
  | genericReinit =>
    cases (step_action hp rfl).symm.trans h
    exact ⟨_, rfl, (framed_genericReinit s).answer _, addsOrderedCalls_of_calls_eq rfl⟩

theorem pos_lt_of_pending {s : State} {op : HostOp} (hp : pending s = some op) : s.pos < s.txns.length :=
  (List.getElem?_eq_some_iff.1 hp).1

/-- Settles O49: the parameters and the list are in the frame, the position moves past an entry that was there, and the calls added
keep the discipline by themselves. -/
theorem stepKeepsInvariant : Obligations.StepKeepsInvariant := by
  rintro s t ⟨hwf, hpos, hcalls⟩ h
  cases hp : pending s with
  | none =>
    cases (step_idle hp).symm.trans h
    exact ⟨hwf, hpos, hcalls⟩
  | some op =>
    obtain ⟨u, rfl, hframe, hadds⟩ := step_pending_next hp h
    refine ⟨?params, ?pos, hadds.callsOk hcalls⟩
    case params => rwa [advance_params, hframe.params]
    case pos =>
      rw [advance_pos, advance_txns, hframe.pos, hframe.txns]
      exact pos_lt_of_pending hp

end Sys2Proof.Machine
end

section
/-! PROOFS. Two states that differ in the lines and the last answer alone step alike (40_dispatcher.md R102, R103; 92_eei_decisions.md
D12): every operation keeps the relation, and what decides between its cases is outside the lines. -/

namespace Sys2Proof.Machine

/-! ### The relation -/

/-- `s'` is `s` with some lines and some answer, as the model's own updates put them in. -/
theorem sameButLines_iff {s s' : State} : SameButLines s s' ↔ ∃ c d r, s' = answer r (setLines c d s) := by
  constructor
  · exact fun h => ⟨s'.clk, s'.dat, s'.ret, h⟩
  · rintro ⟨c, d, r, rfl⟩
    rfl

namespace SameButLines

variable {s s' : State}

theorem cidx_eq (h : SameButLines s s') : s'.cidx = s.cidx := by
  obtain ⟨c, d, r, rfl⟩ := sameButLines_iff.1 h
  rfl

theorem params_eq (h : SameButLines s s') : s'.params = s.params := by
  obtain ⟨c, d, r, rfl⟩ := sameButLines_iff.1 h
  rfl

theorem pending_eq (h : SameButLines s s') : pending s' = pending s := by
  obtain ⟨c, d, r, rfl⟩ := sameButLines_iff.1 h
  rfl

/-! ### The operations keep it -/

theorem answer (h : SameButLines s s') (r r' : Answer) : SameButLines (answer r s) (answer r' s') := by
  obtain ⟨c, d, q, rfl⟩ := sameButLines_iff.1 h
  rfl

theorem setLines (h : SameButLines s s') (c d c' d' : Bool) : SameButLines (setLines c d s) (setLines c' d' s') := by
  obtain ⟨p, q, r, rfl⟩ := sameButLines_iff.1 h
  rfl

theorem advance (h : SameButLines s s') : SameButLines (advance s) (advance s') := by
  obtain ⟨c, d, r, rfl⟩ := sameButLines_iff.1 h
  rfl

theorem recordCall (h : SameButLines s s') (g : GenericCall) : SameButLines (record g s) (record g s') := by
  obtain ⟨c, d, r, rfl⟩ := sameButLines_iff.1 h
  rfl

theorem genericRead (h : SameButLines s s') (o : Nat) : SameButLines (genericRead o s).2 (genericRead o s').2 := by
  obtain ⟨c, d, r, rfl⟩ := sameButLines_iff.1 h
  rfl

theorem genericWrite (h : SameButLines s s') (o : Nat) (b : Byte) :
    SameButLines (genericWrite o b s) (genericWrite o b s') := by
  obtain ⟨c, d, r, rfl⟩ := sameButLines_iff.1 h
  rfl

theorem genericReinit (h : SameButLines s s') : SameButLines (genericReinit s) (genericReinit s') := by
  obtain ⟨c, d, r, rfl⟩ := sameButLines_iff.1 h
  rfl

/-- Both samplings of the index put the same call on record. -/
theorem recordIndex (h : SameButLines s s') :
    SameButLines (record (.index s.cidx) s) (record (.index s'.cidx) s') := by
  rw [h.cidx_eq]
  exact h.recordCall _

theorem dread (h : SameButLines s s') (o : Nat) : SameButLines (dread o s).2 (dread o s').2 := by
  obtain ⟨rfl, hi, e⟩ | ⟨rfl, hi, e⟩ | ⟨ho, e⟩ | ⟨ho, e⟩ := dread_cases o s
  · rw [e, dread_data_sc (h.cidx_eq.trans hi)]
    exact h.recordIndex
  · rw [e, dread_data_generic (h.cidx_eq.trans_ne hi)]
    exact h.recordIndex.genericRead _
  · rw [e, dread_generic ho]
    exact h.genericRead o
  · rw [e, dread_null ho]
    exact h

theorem dwrite (h : SameButLines s s') (o : Nat) (b : Byte) : SameButLines (dwrite o b s) (dwrite o b s') := by
  obtain ⟨rfl, hi, e⟩ | ⟨rfl, hi, e⟩ | ⟨ho, e⟩ | ⟨ho, e⟩ := dwrite_cases o b s
  · rw [e, dwrite_data_sc b (h.cidx_eq.trans hi)]
    exact h.recordIndex.setLines _ _ _ _
  · rw [e, dwrite_data_generic b (h.cidx_eq.trans_ne hi)]
    exact h.recordIndex.genericWrite _ b
  · rw [e, dwrite_generic ho]
    exact h.genericWrite o b
  · rw [e, dwrite_null ho]
    exact h

end SameButLines

/-! ### The instructions -/

/-- A bus access is delivered to both states or to neither (R47). -/
theorem sameOutcome_delivered {s s' t t' : State} (h : SameButLines s s') (ht : SameButLines t t') (off : Byte) :
    SameOutcome SameButLines (if inWindow (muxOffset off) s then .next t else .refused .outsideWindow)
      (if inWindow (muxOffset off) s' then .next t' else .refused .outsideWindow) := by
  have hwindow : inWindow (muxOffset off) s' = inWindow (muxOffset off) s := by rw [inWindow, inWindow, h.params_eq]
  rw [hwindow]
  split
  · exact ht
  · rfl

theorem SameButLines.sameOutcome_exec {s s' : State} (h : SameButLines s s') (i : Instr) :
    SameOutcome SameButLines (exec i s) (exec i s') := by
  cases i with
  | rd8 off => exact sameOutcome_delivered h ((h.dread _).answer _ _) off
  | rd16 off => exact sameOutcome_delivered h (((h.dread _).dread _).answer _ _) off
  | wr8 off b => exact sameOutcome_delivered h ((h.dwrite _ _).answer _ _) off
  | wr16 off v => exact sameOutcome_delivered h (((h.dwrite _ _).dwrite _ _).answer _ _) off
  | reset => exact (h.setLines _ _ _ _).answer _ _
  | scRd => exact h.answer _ _
  | scWr b => exact (h.setLines _ _ _ _).answer _ _
  | dpGenRd j => exact (h.genericRead _).answer _ _
  | dpGenWr j b => exact (h.genericWrite _ _).answer _ _
  | genRd o => exact (h.genericRead _).answer _ _
  | genWr o b => exact (h.genericWrite _ _).answer _ _
  | nulRd o => exact h.answer _ _
  | nulWr o b => exact h.answer _ _

/-! ### The step -/

/-- Two related outcomes go on to related states or are refused alike; there is no fault (R150). -/
theorem sameOutcome_cases {R : State → State → Prop} {x y : Host.Outcome State Fault Refusal} (h : SameOutcome R x y) :
    (∃ t t', x = .next t ∧ y = .next t' ∧ R t t') ∨ ∃ r, x = .refused r ∧ y = .refused r :=
  match x, y, h with
  | .next t, .next t', h => .inl ⟨t, t', rfl, rfl, h⟩
  | .refused r, .refused _, h => .inr ⟨r, rfl, congrArg _ (Eq.symm h)⟩

theorem SameButLines.sameOutcome_runWord {s s' : State} (h : SameButLines s s') (w : Fetched) :
    SameOutcome SameButLines (runWord w s) (runWord w s') := by
  cases hi : decode w with
  | error e => simp only [runWord, hi, SameOutcome]
  | ok i =>
    obtain ⟨t, t', ht, ht', hsame⟩ | ⟨r, hr, hr'⟩ := sameOutcome_cases (h.sameOutcome_exec i)
    · rw [runWord_of hi ht, runWord_of hi ht']
      exact hsame.advance
    · rw [runWord_refused hi hr, runWord_refused hi hr']
      rfl

/-- The key of a byte access is built of the access and the index (R65). -/
theorem SameButLines.buildKey_key_eq {s s' : State} (h : SameButLines s s') (w : Bool) (o : Nat) :
    (buildKey w o s').1 = (buildKey w o s).1 := by
  rw [buildKey_key, buildKey_key, h.cidx_eq]

theorem SameButLines.buildKey {s s' : State} (h : SameButLines s s') (w : Bool) (o : Nat) :
    SameButLines (buildKey w o s).2 (buildKey w o s').2 := by
  rw [buildKey_state, buildKey_state]
  split
  · exact h.recordIndex
  · exact h

theorem presentByte_inside {w : Bool} {o : Nat} {b : Byte} {s : State} (h : o < s.params.winSize) :
    presentByte w o b s = .word (.disp (buildKey w o s).1 o b) (buildKey w o s).2 :=
  if_pos ((inWindow_iff o s).2 h)

/-- A byte access is presented under one key to both states, or to neither. -/
theorem SameButLines.sameOutcome_step_byteAccess {s s' : State} (h : SameButLines s s') {op : HostOp} {w : Bool}
    {o : Nat} {b : Byte} (hp : pending s = some op) (hop : ∀ t, present op t = presentByte w o b t) :
    SameOutcome SameButLines (step s) (step s') := by
  have hp' : pending s' = some op := h.pending_eq.trans hp
  obtain ho | ho := Nat.lt_or_ge o s.params.winSize
  · have ho' : o < s'.params.winSize := h.params_eq ▸ ho
    rw [step_word hp ((hop s).trans (presentByte_inside ho)), step_word hp' ((hop s').trans (presentByte_inside ho')),
      h.buildKey_key_eq]
    exact (h.buildKey w o).sameOutcome_runWord _
  · have ho' : s'.params.winSize ≤ o := h.params_eq ▸ ho
    rw [step_not_presented hp ((hop s).trans (presentByte_outside ho)),
      step_not_presented hp' ((hop s').trans (presentByte_outside ho'))]
    rfl

/-- Settles O51, by the entry pending, which is the same for both: a word decodes alike and runs alike, and an action of the host
differs in the lines and the answer alone. -/
theorem linesDoNotReachTheGenericSubsystem : Obligations.LinesDoNotReachTheGenericSubsystem := by
  intro s s' h
  cases hp : pending s with
  | none =>
    rw [step_idle hp, step_idle (h.pending_eq.trans hp)]
    exact h
  | some op =>
    have hp' : pending s' = some op := h.pending_eq.trans hp
    cases op with
    | bus w =>
      rw [step_word hp rfl, step_word hp' rfl]
      exact h.sameOutcome_runWord _
    | byteRead o => exact h.sameOutcome_step_byteAccess hp fun _ => rfl
    | byteWrite o b => exact h.sameOutcome_step_byteAccess hp fun _ => rfl
    | save =>
      rw [step_action hp rfl, step_action hp' rfl]
      exact (h.answer _ _).advance
    | restore c d =>
      rw [step_action hp rfl, step_action hp' rfl]
      exact ((h.setLines c d c d).answer _ _).advance
    | genericReinit =>
      rw [step_action hp rfl, step_action hp' rfl]
      exact (h.genericReinit.answer _ _).advance

end Sys2Proof.Machine
end

section
/-! PROOFS. The match table and the mux (40_dispatcher.md R100, R101; 30_encoding.md R65, R66): what is decoded is well-formed, a byte
access is one step, and the index is sampled at the data port alone. -/

namespace Sys2Proof

/-! ### The keys that decode (R64 to R66) -/

/-- A key with a class's code in its `C` field is the one its fields build. -/
theorem dispKey_of_class_bits {k : DispKey} {c : OffClass} (h : k.extractLsb' 8 2 = classCode c) :
    dispKey (dispIsWrite k) c (dispIndex k) = k := by
  refine BitVec.eq_of_getLsbD_eq fun n hn => ?_
  simp only [dispKey, dispIsWrite, dispIndex, ← h, BitVec.getLsbD_append, BitVec.getLsbD_extractLsb']
  interval_cases n <;> simp

/-- Every row compares the whole of the `C` field, with its class's code. -/
theorem dispRows_class_bits : ∀ r ∈ dispRows,
    r.mask.extractLsb' 8 2 = BitVec.allOnes 2 ∧ r.pattern.extractLsb' 8 2 = classCode r.cls := by decide

/-- A key matches only rows of the class its `C` field codes. -/
theorem class_bits_of_match {k : DispKey} {r : DispRow} (hr : r ∈ dispRows) (h : k &&& r.mask = r.pattern) :
    k.extractLsb' 8 2 = classCode r.cls := by
  obtain ⟨hmask, hpattern⟩ := dispRows_class_bits r hr
  rw [← hpattern, ← h, BitVec.extractLsb'_and, hmask, BitVec.and_allOnes]

/-- A key that decodes is one built of its access's class, so it decodes to the operation its fields name. -/
theorem decodeDisp_ok {k : DispKey} {o : Nat} {b : Byte} {i : Instr} (h : decodeDisp k o b = .ok i) :
    i = dispatched (dispIsWrite k) (classify o) (dispIndex k) o b := by
  have hkey : k.extractLsb' 8 2 = classCode (classify o) := by
    unfold decodeDisp at h
    split at h
    · cases h
    · next r hr =>
      split at h
      · next hc =>
        have hmatch : k &&& r.mask = r.pattern := by simpa using List.find?_some hr
        rw [hc, class_bits_of_match (List.mem_of_find?_eq_some hr) hmatch]
      · cases h
  rw [← dispKey_of_class_bits hkey, decodeDisp_of_class rfl] at h
  exact (Except.ok.inj h).symm

/-- The conditions of R104 to R109 are what selects the operation. -/
theorem dispatched_wf (w : Bool) (i : Byte) (o : Nat) (b : Byte) : (dispatched w (classify o) i o b).wf = true := by
  cases hc : classify o with
  | data =>
    cases w with
    | false => by_cases h : i = scRdIdx <;> simp [dispatched, Instr.wf, h]
    | true => by_cases h : i = scWrIdx <;> simp [dispatched, Instr.wf, h]
  | generic => cases w <;> exact beq_iff_eq.2 hc
  | null => cases w <;> exact beq_iff_eq.2 hc

/-- Settles O7: a bus operation takes every operand, and a key that decodes was built for its access. -/
theorem decodedIsWellFormed : Obligations.DecodedIsWellFormed := by
  intro w i h
  cases w with
  | bus t =>
    obtain ⟨op, rfl⟩ := Machine.decodeBus_ok h
    exact busInstr_wf op t
  | disp k o b =>
    rw [decodeDisp_ok h]
    exact dispatched_wf _ _ o b

namespace Machine

/-! ### The mux is the selected operation (R100) -/

/-- Settles O10: the built key decodes to the row of its fields, and that row's operation is the mux's own. -/
theorem muxRunsTheSelectedOperation : Obligations.MuxRunsTheSelectedOperation := fun o b s =>
  ⟨⟨_, decode_buildKey false o 0 s, exec_selected_read _ o 0 s⟩,
    ⟨_, decode_buildKey true o b s, exec_selected_write _ o b s⟩⟩

/-- Settles O53: the step's `.next` is known by its `↔`, and the mux leaves the position it started from. -/
theorem byteAccessCompletes : Obligations.ByteAccessCompletes := by
  constructor
  · intro o s hp h
    rw [(step_byteRead_next_iff hp).2 ⟨h, rfl⟩, advance, answer, (framed_dread o s).pos]
  · intro o b s hp h
    rw [(step_byteWrite_next_iff hp).2 ⟨h, rfl⟩, advance, answer, (framed_dwrite o b s).pos]

/-! ### The index is sampled at the data port alone (R101) -/

/-- From `s` to `t` a byte access at `o` put its sampling of the index on record, if it is at the data port, and then no other. -/
def SamplesOnce (o : Nat) (s t : State) : Prop :=
  ∃ rest, t.calls = s.calls ++ ((if o = dataPort then [.index s.cidx] else []) ++ rest) ∧ rest.countP isIndexCall = 0

theorem samplesOnce_dread (o : Nat) (s : State) : SamplesOnce o s (dread o s).2 := by
  obtain ⟨rfl, -, e⟩ | ⟨rfl, -, e⟩ | ⟨h, e⟩ | ⟨h, e⟩ := dread_cases o s
  · exact ⟨[], by simp [e], rfl⟩
  · exact ⟨[.read dataPort (genericAnswer dataPort (record (.index s.cidx) s))], by simp [e], rfl⟩
  · exact ⟨[.read o (genericAnswer o s)], by simp [e, ne_dataPort_of_generic h], rfl⟩
  · exact ⟨[], by simp [e, ne_dataPort_of_null h], rfl⟩

theorem samplesOnce_dwrite (o : Nat) (b : Byte) (s : State) : SamplesOnce o s (dwrite o b s) := by
  obtain ⟨rfl, -, e⟩ | ⟨rfl, -, e⟩ | ⟨h, e⟩ | ⟨h, e⟩ := dwrite_cases o b s
  · exact ⟨[], by simp [e], rfl⟩
  · exact ⟨[.write dataPort b], by simp [e], rfl⟩
  · exact ⟨[.write o b], by simp [e, ne_dataPort_of_generic h], rfl⟩
  · exact ⟨[], by simp [e, ne_dataPort_of_null h], rfl⟩

theorem SamplesOnce.indexCalls {o : Nat} {s t : State} (h : SamplesOnce o s t) :
    indexCalls t = indexCalls s + if o = dataPort then 1 else 0 := by
  obtain ⟨rest, hcalls, hrest⟩ := h
  rw [Machine.indexCalls, hcalls, List.countP_append, List.countP_append, hrest]
  split <;> rfl

theorem SamplesOnce.first_call {s t : State} (h : SamplesOnce dataPort s t) :
    ∃ rest, t.calls = s.calls ++ .index s.cidx :: rest := by
  obtain ⟨rest, hcalls, -⟩ := h
  exact ⟨rest, hcalls⟩

/-- Settles O11: both byte accesses sample once at the data port, before any other call of theirs. -/
theorem indexSampledOnlyAtDataPort : Obligations.IndexSampledOnlyAtDataPort := by
  intro o b s
  refine ⟨(samplesOnce_dread o s).indexCalls, (samplesOnce_dwrite o b s).indexCalls, ?_⟩
  rintro rfl
  obtain ⟨rest, hread⟩ := (samplesOnce_dread dataPort s).first_call
  obtain ⟨rest', hwrite⟩ := (samplesOnce_dwrite dataPort b s).first_call
  exact ⟨rest, rest', hread, hwrite⟩

end Machine
end Sys2Proof
end

section
/-! PROOFS. The eight dispatch operations of 40_dispatcher.md, R102 to R109: the key that selects each, the state it leaves, and its
corner cases through the mux. -/

namespace Sys2Proof.Machine

/-! ### The side channel (R102, R103) -/

theorem exec_scRd (s : State) : exec .scRd s = .next (answer (.byte (readView s.clk s.dat)) s) := rfl

theorem exec_scWr (b : Byte) (s : State) :
    exec (.scWr b) s = .next (answer .nothing (setLines (writtenClk b) (writtenDat b) s)) := rfl

/-- The byte a qualifying read answers holds nothing but the two lines. -/
theorem readView_mem : ∀ c d : Bool, readView c d ∈ [0x00, 0x04, 0x08, 0x0c] := by decide

/-- SC_RD where the lines' read view is known. -/
theorem exec_scRd_of_readView {s : State} {b : Byte} (h : readView s.clk s.dat = b) :
    exec .scRd s = .next (answer (.byte b) s) := by rw [exec_scRd, h]

theorem readView_cleared : readView false false = 0x00 := rfl

theorem readView_set : readView true true = 0x0c := rfl

/-- Settles O12: the answer is the read view of the lines, which a reset leaves both 0. -/
theorem scRdReadsTheLines : Obligations.ScRdReadsTheLines :=
  ⟨decodeDisp_of_key (w := false) (i := 0x3e) rfl, exec_scRd, fun s => readView_getLsbD s.clk s.dat,
    fun s => readView_mem s.clk s.dat, fun _ => ⟨_, rfl, exec_scRd_of_readView readView_cleared⟩,
    fun _ => ⟨_, rfl, rfl⟩, fun _ hclk hdat => exec_scRd_of_readView (hclk ▸ hdat ▸ readView_set)⟩

/-- Bytes that agree in bits 5 and 4 write the same lines, whatever their other bits. -/
theorem written_eq_of_and_eq {b b' : Byte} (h : b &&& 0x30 = b' &&& 0x30) :
    writtenClk b = writtenClk b' ∧ writtenDat b = writtenDat b' := by
  have hclk : (b &&& 0x30).getLsbD 5 = (b' &&& 0x30).getLsbD 5 := by rw [h]
  have hdat : (b &&& 0x30).getLsbD 4 = (b' &&& 0x30).getLsbD 4 := by rw [h]
  simpa [writtenClk, writtenDat, wrClkBit, wrDatBit] using And.intro hclk hdat

/-- Settles O13: both lines are set in one step from the two bits of R67. -/
theorem scWrWritesBothLines : Obligations.ScWrWritesBothLines := by
  refine ⟨decodeDisp_of_key (w := true) (i := 0x3f) rfl, exec_scWr, ?ignoredBits, fun s => ⟨rfl, rfl⟩,
    ?sameLines, ?throughMux⟩
  case ignoredBits =>
    intro b b' s h
    obtain ⟨hclk, hdat⟩ := written_eq_of_and_eq h
    rw [exec_scWr, exec_scWr, hclk, hdat]
  case sameLines =>
    intro s
    rw [exec_scWr, writtenClk_writeView, writtenDat_writeView]
    rfl
  case throughMux =>
    intro s h
    obtain ⟨hclk, hdat, -⟩ := dwrite_data_sc_fields 0x30 h
    exact ⟨hclk, hdat⟩

/-! ### The data port under another index (R104, R105) -/

/-- A key of a data-port access is its row's pattern with the index in `I`. -/
theorem dispKey_data_read : ∀ i : Byte, dispKey false .data i = 0x200 ||| i.setWidth 11 := by decide

theorem dispKey_data_write : ∀ i : Byte, dispKey true .data i = 0x600 ||| i.setWidth 11 := by decide

theorem decodeDisp_data_generic_read {i : Byte} (h : i ≠ scRdIdx) (b : Byte) :
    decodeDisp (0x200 ||| i.setWidth 11) dataPort b = .ok (.dpGenRd i) := by
  rw [← dispKey_data_read, decodeDisp_of_class classify_dataPort, dispatched, if_neg h]

theorem decodeDisp_data_generic_write {i : Byte} (h : i ≠ scWrIdx) (b : Byte) :
    decodeDisp (0x600 ||| i.setWidth 11) dataPort b = .ok (.dpGenWr i b) := by
  rw [← dispKey_data_write, decodeDisp_of_class classify_dataPort, dispatched, if_neg h]

/-- Settles O14: the key is of the data port and of no side-channel index, and sampling the index changes no generic answer. -/
theorem dpGenRdReadsGeneric : Obligations.DpGenRdReadsGeneric := by
  refine ⟨fun _ b hi => decodeDisp_data_generic_read hi b, fun _ _ => rfl, fun s h => ?_⟩
  have hsc : s.cidx ≠ scRdIdx := by rw [h]; decide
  exact congrArg Prod.fst (dread_data_generic hsc)

/-- Settles O15: the same of a write, which under the index 0 records the sampling and the generic call. -/
theorem dpGenWrWritesGeneric : Obligations.DpGenWrWritesGeneric := by
  refine ⟨fun _ b hi => decodeDisp_data_generic_write hi b, fun _ _ _ => rfl, fun s h => ?_⟩
  have hsc : s.cidx ≠ scWrIdx := by rw [h]; decide
  have hwrite : dwrite 0x15 0x30 s = _ := dwrite_data_generic 0x30 hsc
  rw [hwrite]
  exact ⟨by simp [h, dataPort], rfl, rfl⟩

/-! ### The generic offsets (R106, R107) -/

/-- Settles O16: a key of class GENERIC at such an offset, and a mux read that is the generic one. -/
theorem genRdReadsGeneric : Obligations.GenRdReadsGeneric := by
  refine ⟨fun o b h => decodeDisp_of_class ((classify_generic_iff o).2 h) false 0 b, fun o s => rfl, fun s => ⟨?_, ?_⟩⟩
  · rw [dread_generic (by decide), genericRead_value]
  · rw [dread_generic (by decide), genericRead_value]

/-- Settles O17: the same of a write; the index it selects is the reference environment's law. -/
theorem genWrWritesGeneric : Obligations.GenWrWritesGeneric :=
  ⟨fun o b h => decodeDisp_of_class ((classify_generic_iff o).2 h) true 0 b, fun _ _ _ => rfl,
    fun _ h => dwrite_indexPort_cidx h 0x3f⟩

/-! ### The null offsets (R108, R109) -/

/-- Settles O18: an offset with no register reads 0, and `WIN_SIZE` is past every register. -/
theorem nulRdAnswersZero : Obligations.NulRdAnswersZero :=
  ⟨fun _ b h => decodeDisp_of_class h false 0 b, fun _ _ => rfl, fun _ s h => dread_null h s,
    fun s => dread_null (by decide) s, fun s h => dread_null (classify_above (winSize_bounds h).1) s⟩

/-- Settles O19: a write at an offset with no register leaves the state. -/
theorem nulWrIsDropped : Obligations.NulWrIsDropped :=
  ⟨fun _ b h => decodeDisp_of_class h true 0 b, fun _ _ _ => rfl, fun _ b s h => dwrite_null h b s,
    fun b s => ⟨dwrite_null (by decide) b s, dwrite_null (by decide) 0x30 s⟩⟩

end Sys2Proof.Machine
end

section
/-! PROOFS. The width adapter (41_shim.md R130 to R135): the words of its four accesses, what each access leaves, and which BUS words
complete and which are refused. -/

namespace Sys2Proof

/-! ### The words (R61, R63) -/

/-- A BUS word as its header, offset and data put in place. -/
theorem busWord_eq_or (h : BitVec 4) (off : Byte) (data : Half) :
    busWord h off data = h.setWidth 32 <<< 28 ||| off.setWidth 32 <<< 16 ||| data.setWidth 32 := by
  refine BitVec.eq_of_getLsbD_eq fun k hk => ?_
  simp only [busWord, BitVec.getLsbD_or, BitVec.getLsbD_append, BitVec.getLsbD_shiftLeft, BitVec.getLsbD_setWidth]
  interval_cases k <;> simp

theorem busWord_read_eq_or (h : BitVec 4) (off : Byte) :
    busWord h off 0 = h.setWidth 32 <<< 28 ||| off.setWidth 32 <<< 16 :=
  (busWord_eq_or h off 0).trans BitVec.or_zero

theorem encode_rd8 (off : Byte) : encode (.rd8 off) = .bus (off.setWidth 32 <<< 16) :=
  congrArg Fetched.bus ((busWord_read_eq_or 0x0 off).trans BitVec.zero_or)

theorem encode_rd16 (off : Byte) : encode (.rd16 off) = .bus (0x10000000 ||| off.setWidth 32 <<< 16) :=
  congrArg Fetched.bus (busWord_read_eq_or 0x1 off)

theorem encode_wr8 (off b : Byte) :
    encode (.wr8 off b) = .bus (0x40000000 ||| off.setWidth 32 <<< 16 ||| b.setWidth 32) := by
  have hb : (b.setWidth 16).setWidth 32 = b.setWidth 32 := BitVec.setWidth_setWidth (by decide)
  exact congrArg Fetched.bus (hb ▸ busWord_eq_or 0x4 off (b.setWidth 16))

theorem encode_wr16 (off : Byte) (v : Half) :
    encode (.wr16 off v) = .bus (0x50000000 ||| off.setWidth 32 <<< 16 ||| v.setWidth 32) :=
  congrArg Fetched.bus (busWord_eq_or 0x5 off v)

namespace Machine

/-! ### The 2-byte write as byte writes (R133) -/

/-- A 2-byte write is the byte write of its low byte and then, in the state that left, the one of its high byte. -/
theorem exec_wr16_eq_wr8_wr8 {off off' : Byte} {s : State} (v : Half) (hsucc : off'.toNat = off.toNat + 1)
    (h : off'.toNat < s.params.winSize) :
    ∃ t, exec (.wr8 off (lowByte v)) s = .next t ∧ exec (.wr8 off' (highByte v)) t = exec (.wr16 off v) s := by
  have hoff : off.toNat < s.params.winSize := by omega
  have hsecond : off'.toNat < (answer .nothing (dwrite off.toNat (lowByte v) s)).params.winSize := by
    rwa [answer_params, (framed_dwrite _ _ s).params]
  refine ⟨_, exec_wr8_inside _ hoff, ?_⟩
  rw [exec_wr8_inside _ hsecond, exec_wr16_inside v hoff, hsucc, dwrite_answer, answer_answer]

/-- With no register after its offset it is the byte write of its low byte, in the window or not. -/
theorem exec_wr16_of_second_null {off : Byte} (h : classify (off.toNat + 1) = .null) (v : Half) (s : State) :
    exec (.wr16 off v) s = exec (.wr8 off (lowByte v)) s := by
  have hlow : lowByte (lowByte v) = lowByte v := BitVec.extractLsb'_eq_self
  have hmem : memWrite16 off v s = memWrite8 off (lowByte v) s := by
    rw [memWrite16_eq, memWrite8_eq, dwrite_null h, hlow]
  rw [exec, exec, execWr16, execWr8, hmem]

/-- With no register at its offset it is the byte write of its high byte at the next one. -/
theorem exec_wr16_of_first_null {off off' : Byte} {s : State} (v : Half) (hsucc : off'.toNat = off.toNat + 1)
    (h : off'.toNat < s.params.winSize) (hnull : classify off.toNat = .null) :
    exec (.wr16 off v) s = exec (.wr8 off' (highByte v)) s := by
  rw [exec_wr16_inside v (by omega), exec_wr8_inside _ h, dwrite_null hnull, hsucc]

/-- Settles O26: the two bytes are written in order, and next to a null offset one write is left of the two. -/
theorem wr16WritesLowThenHigh : Obligations.Wr16WritesLowThenHigh := by
  obtain ⟨-, -, -, hwide⟩ := busWordAboveTheWidth
  exact ⟨encode_wr16, fun _ v _ h => exec_wr16_inside v h, hwide,
    fun v _ h => exec_wr16_eq_wr8_wr8 (off := 0x14) (off' := 0x15) v rfl h,
    exec_wr16_of_second_null (off := 0x15) (by decide),
    fun v _ h => exec_wr16_of_first_null (off := 0x13) (off' := 0x14) v rfl h (by decide)⟩

/-! ### The words of no operation (R134) -/

theorem headerWidth_fourByte : ∀ h : BitVec 4, h = 0x2 ∨ h = 0x6 → headerWidth h = some 4 := by decide

theorem headerWidth_eightByte : ∀ h : BitVec 4, h = 0x3 ∨ h = 0x7 → headerWidth h = some 8 := by decide

/-- A header with the reset bit and any other bit set has no row, and names no width to be refused under. -/
theorem reserved_header : ∀ h : BitVec 4, 0x9 ≤ h →
    busRows.find? (fun r => h.setWidth 32 <<< 28 == r.pattern) = none ∧ busError h = .reservedHeader := by decide

theorem decodeBus_reserved {t : BusWord} (h : 0x9 ≤ busHeader t) : decodeBus t = .error .reservedHeader := by
  obtain ⟨hrow, herror⟩ := reserved_header _ h
  rw [decodeBus_of_no_row hrow, herror]

/-- Settles O32: the width a header names is refused by its own name, 4 being a valid width and 8 none; the rest have no row. -/
theorem unacceptedHeadersAreRefused : Obligations.UnacceptedHeadersAreRefused := by
  intro s w hp
  refine ⟨fun h => ?fourByte, fun h => ?eightByte, fun h => step_bus_rejected hp (decodeBus_reserved h)⟩
  case fourByte => exact step_bus_rejected hp (decodeBus_width_refused (headerWidth_fourByte _ h) (by decide))
  case eightByte => exact step_bus_rejected hp (decodeBus_width_refused (headerWidth_eightByte _ h) (by decide))

/-! ### The accesses that complete (R135) -/

/-- In the window every access completes; a read leaves a value for a bus of any width as answer, and a write leaves none. -/
theorem exec_access_completes {i : Instr} {off : Byte} {s : State} (n : Nat) (hoff : accessOffset i = some off)
    (h : off.toNat < s.params.winSize) :
    ∃ t, exec i s = .next t ∧ (isBusRead i = true → ∃ r, busResult n t.ret = some r) ∧
      (isBusRead i = false → t.ret = .nothing) := by
  cases i with
  | rd8 o => cases hoff; exact ⟨_, exec_rd8_inside h, fun _ => ⟨_, rfl⟩, nofun⟩
  | rd16 o => cases hoff; exact ⟨_, exec_rd16_inside h, fun _ => ⟨_, rfl⟩, nofun⟩
  | wr8 o b => cases hoff; exact ⟨_, exec_wr8_inside b h, nofun, fun _ => rfl⟩
  | wr16 o v => cases hoff; exact ⟨_, exec_wr16_inside v h, nofun, fun _ => rfl⟩
  | _ => cases hoff

/-- Settles O33: the step runs the access and moves the position, which the access itself leaves, by one. -/
theorem acceptedAccessCompletes : Obligations.AcceptedAccessCompletes := by
  intro s w i off hp hi hoff hwin
  obtain ⟨t, ht, hread, hwrite⟩ := exec_access_completes s.params.busBits hoff hwin
  have hpos : (advance t).pos = s.pos + 1 := congrArg (· + 1) (exec_framed ht).pos
  exact ⟨advance t, (step_word hp rfl).trans (runWord_of hi ht), hpos, hread, hwrite⟩

/-! ### The other accesses one by one (R130 to R132) -/

/-- RD16 at the data port under the read index answers the lines alone, for no register follows (R131). -/
theorem exec_rd16_data_sc {s : State} (h : dataPort < s.params.winSize) (hc : s.cidx = scRdIdx) :
    exec (.rd16 (BitVec.ofNat 8 dataPort)) s =
      .next (answer (.half ((0x00 : Byte) ++ scRead s)) (record (.index scRdIdx) s)) := by
  have hlow : dread (BitVec.ofNat 8 dataPort).toNat s = _ := dread_data_sc hc
  have hnull : classify ((BitVec.ofNat 8 dataPort).toNat + 1) = .null := by decide
  rw [exec_rd16_inside (off := BitVec.ofNat 8 dataPort) h, hlow, dread_null hnull, hc]

/-- WR8 at the data port under the write index sets the lines and calls no handler (R103). -/
theorem exec_wr8_data_sc {s : State} (b : Byte) (h : dataPort < s.params.winSize) (hc : s.cidx = scWrIdx) :
    exec (.wr8 (BitVec.ofNat 8 dataPort) b) s = .next (answer .nothing (scWrite b (record (.index scWrIdx) s))) := by
  have hwrite : dwrite (BitVec.ofNat 8 dataPort).toNat b s = _ := dwrite_data_sc b hc
  rw [exec_wr8_inside (off := BitVec.ofNat 8 dataPort) b h, hwrite, hc]

/-- Settles O23: RD8 is the mux's byte read, which answers 0 at a null offset and the lines under the read index. -/
theorem rd8ReturnsTheByte : Obligations.Rd8ReturnsTheByte := by
  refine ⟨encode_rd8, fun _ _ h => exec_rd8_inside h, fun _ _ => rfl, ?null, ?lines⟩
  case null =>
    intro off s hnull h
    rw [exec_rd8_inside h, dread_null hnull]
    rfl
  case lines =>
    intro s h hclk hdat hc
    have hvalue : scRead s = 0x04 := by rw [scRead, hclk, hdat]; rfl
    have hread := exec_rd8_data_sc h hc
    rw [hvalue, hc] at hread
    exact hread

/-- Settles O24: RD16 is the mux's byte read twice, the second in the state the first left. -/
theorem rd16ReadsLowThenHigh : Obligations.Rd16ReadsLowThenHigh := by
  refine ⟨encode_rd16, fun _ _ h => exec_rd16_inside h, fun _ _ => rfl, ?lines⟩
  intro s h hclk hdat hc
  have hvalue : scRead s = 0x0c := by rw [scRead, hclk, hdat]; rfl
  have hread := exec_rd16_data_sc h hc
  rw [hvalue] at hread
  exact hread

/-- Settles O25: WR8 is the mux's byte write of the low byte, which sets the lines under the write index. -/
theorem wr8WritesTheLowByte : Obligations.Wr8WritesTheLowByte := by
  refine ⟨encode_wr8, fun _ b _ h => exec_wr8_inside b h, fun _ off v s => memWrite8_eq off v s, ?cut,
    fun _ h hc => exec_wr8_data_sc 0x20 h hc⟩
  intro s
  have hlow : lowByte (0x130 : BitVec 16) = lowByte (0x30 : Byte) := by decide
  rw [memWrite8_eq, memWrite8_eq, hlow]

end Machine
end Sys2Proof
end

section
/-! PROOFS. What can be refused, and under which name (60_exceptions.md R150, R151; 41_shim.md R134; 20_memory.md R47): the converses of
what the decoder, the window check and the step do. -/

namespace Sys2Proof

/-- A rejected word has none of the headers of the opcode map, for a word of each of those decodes (R62). -/
theorem busHeader_not_mem_of_error {t : BusWord} {e : DecodeError} (h : decodeBus t = .error e) :
    busHeader t ∉ [0x0, 0x1, 0x4, 0x5, 0x8] := by
  intro hmem
  simp only [List.mem_cons, List.not_mem_nil, or_false] at hmem
  obtain ht | ht | ht | ht | ht := hmem
  · cases (decodeBus_rd8 ht).symm.trans h
  · cases (decodeBus_rd16 ht).symm.trans h
  · cases (decodeBus_wr8 ht).symm.trans h
  · cases (decodeBus_wr16 ht).symm.trans h
  · cases (decodeBus_reset ht).symm.trans h

namespace Machine

/-! ### The instructions (R47) -/

/-- The one refusal of a bus access is the framework's, outside the window. -/
theorem delivered_refused {off : Byte} {s u : State} {r : Refusal}
    (h : (if inWindow (muxOffset off) s then .next u else .refused .outsideWindow : Host.Outcome State Fault Refusal) =
      .refused r) : s.params.winSize ≤ off.toNat ∧ r = .outsideWindow := by
  obtain hin | hout := Nat.lt_or_ge off.toNat s.params.winSize
  · cases (delivered_next_iff.2 ⟨hin, rfl⟩).symm.trans h
  · cases (not_delivered u hout).symm.trans h
    exact ⟨hout, rfl⟩

/-- Of the thirteen meanings only those of the four bus accesses refuse anything. -/
theorem exec_refused {i : Instr} {s : State} {r : Refusal} (h : exec i s = .refused r) :
    ∃ off, accessOffset i = some off ∧ s.params.winSize ≤ off.toNat ∧ r = .outsideWindow := by
  cases i with
  | rd8 off => exact ⟨off, rfl, delivered_refused h⟩
  | rd16 off => exact ⟨off, rfl, delivered_refused h⟩
  | wr8 off b => exact ⟨off, rfl, delivered_refused h⟩
  | wr16 off v => exact ⟨off, rfl, delivered_refused h⟩
  | _ => cases h

/-! ### The step, by the kind of its entry -/

/-- A word is refused by the decoder or by the instruction it decodes to. -/
theorem runWord_refused_cases {w : Fetched} {t : State} {r : Refusal} (h : runWord w t = .refused r) :
    (∃ e, decode w = .error e ∧ r = refusalOf e) ∨ ∃ i, decode w = .ok i ∧ exec i t = .refused r := by
  unfold runWord at h
  split at h
  · next e he => exact .inl ⟨e, he, by cases h; rfl⟩
  · next i hi =>
    split at h
    · cases h
    · cases h
    · next r' hr => exact .inr ⟨i, hi, by cases h; exact hr⟩

theorem step_bus_refused {s : State} {w : BusWord} {r : Refusal} (hp : pending s = some (.bus w))
    (h : step s = .refused r) :
    (∃ e, decodeBus w = .error e ∧ r = refusalOf e ∧ busHeader w ∉ [0x0, 0x1, 0x4, 0x5, 0x8]) ∨
      ∃ i off, decodeBus w = .ok i ∧ accessOffset i = some off ∧ s.params.winSize ≤ off.toNat ∧ r = .outsideWindow := by
  obtain ⟨e, he, hr⟩ | ⟨i, hi, hexec⟩ := runWord_refused_cases ((step_word hp rfl).symm.trans h)
  · exact .inl ⟨e, he, hr, busHeader_not_mem_of_error he⟩
  · obtain ⟨off, hoff, hout⟩ := exec_refused hexec
    exact .inr ⟨i, off, hi, hoff, hout⟩

/-- A byte access in the window completes, so a refused one is outside it. -/
theorem step_byteAccess_refused {s : State} {o : Nat} {b : Byte} {r : Refusal}
    (hp : pending s = some (.byteRead o) ∨ pending s = some (.byteWrite o b)) (h : step s = .refused r) :
    s.params.winSize ≤ o ∧ r = .outsideWindow := by
  obtain hin | hout := Nat.lt_or_ge o s.params.winSize
  · obtain hp | hp := hp
    · cases ((step_byteRead_next_iff hp).2 ⟨hin, rfl⟩).symm.trans h
    · cases ((step_byteWrite_next_iff hp).2 ⟨hin, rfl⟩).symm.trans h
  · obtain ⟨-, hrefused⟩ := outsideWindowIsRefused
    cases (hrefused o b s hout hp).symm.trans h
    exact ⟨hout, rfl⟩

/-- Settles O40: there is no fault to end in, and of the entries of the host's list only a bus word and a byte access can be refused;
with nothing pending, and for the host's own actions, the step goes on. -/
theorem onlyBoundaryRefusals : Obligations.OnlyBoundaryRefusals := by
  refine ⟨fun _ => nofun, fun s r h => ?_⟩
  cases hp : pending s with
  | none => cases (step_idle hp).symm.trans h
  | some op =>
    cases op with
    | bus w => exact .inl ⟨w, rfl, step_bus_refused hp h⟩
    | byteRead o => exact .inr ⟨o, 0, .inl rfl, step_byteAccess_refused (b := 0) (.inl hp) h⟩
    | byteWrite o b => exact .inr ⟨o, b, .inr rfl, step_byteAccess_refused (.inr hp) h⟩
    | save => cases (step_action hp rfl).symm.trans h
    | restore c d => cases (step_action hp rfl).symm.trans h
    | genericReinit => cases (step_action hp rfl).symm.trans h

end Machine
end Sys2Proof
end

section
/-! PROOFS. Reset, construction and the hazards of the shared index (70_reset_and_hazards.md R170 to R178; 92_eei_decisions.md D12, D13):
what an access leaves the index and the lines when `GENERIC_INDEX_LAW` fixes the index. -/

namespace Sys2Proof.Machine

/-! ### The side channel under its own index (R177) -/

theorem dread_data_scRdIdx {s : State} (h : s.cidx = scRdIdx) :
    dread dataPort s = (scRead s, record (.index scRdIdx) s) := by rw [dread_data_sc h, h]

theorem dwrite_data_scWrIdx (b : Byte) {s : State} (h : s.cidx = scWrIdx) :
    dwrite dataPort b s = scWrite b (record (.index scWrIdx) s) := by rw [dwrite_data_sc b h, h]

/-- Settles O44: the side channel records the sampling of its index and calls no handler. -/
theorem sharedIndexHazard : Obligations.SharedIndexHazard :=
  ⟨fun b _ h => dwrite_data_scWrIdx b h, fun _ h => dread_data_scRdIdx h⟩

/-! ### Selecting the index and writing the lines in one access (R175) -/

/-- Under `GENERIC_INDEX_LAW` a write at `INDEX_PORT` leaves the byte written as index, and the rest of the subsystem's state free. -/
theorem dwrite_indexPort_reference {s : State} (h : s.params.env = .reference) (b : Byte) :
    dwrite indexPort b s = record (.write indexPort b) (setGeneric ⟨b, genAfterWrite indexPort b s⟩ s) := by
  have hindex : indexAfterWrite indexPort b s = b := by simp [indexAfterWrite, h]
  rw [dwrite_generic indexPort_generic, genericWrite, hindex]

/-- Settles O43: the second byte meets the index the first has just selected. -/
theorem selectAndWriteInOneAccess : Obligations.SelectAndWriteInOneAccess := by
  intro e s henv hwin
  refine (exec_setLinesWide hwin e).trans ?_
  rw [dwrite_data_scWrIdx e (dwrite_indexPort_cidx henv scWrIdx), dwrite_indexPort_reference henv,
    List.append_cons s.calls]
  rfl

/-! ### What leaves the index alone (R178) -/

/-- `GENERIC_INDEX_LAW` through the mux: a byte read selects no index. -/
theorem dread_cidx_reference {s : State} (h : s.params.env = .reference) (o : Nat) : (dread o s).2.cidx = s.cidx := by
  obtain ⟨-, -, e⟩ | ⟨-, -, e⟩ | ⟨-, e⟩ | ⟨-, e⟩ := dread_cases o s
  · simp [e]
  · simp [e, indexAfterRead, h]
  · simp [e, indexAfterRead, h]
  · simp [e]

theorem memRead16_cidx_reference {s : State} (h : s.params.env = .reference) (off : Byte) :
    (memRead16 off s).cidx = s.cidx := by
  have hmid : (dread off.toNat s).2.params.env = .reference := (framed_dread _ s).params ▸ h
  rw [memRead16_eq, answer_cidx, dread_cidx_reference hmid, dread_cidx_reference h]

/-- A 2-byte write neither of whose bytes is placed at `INDEX_PORT` selects no index. -/
theorem memWrite16_cidx_reference {s : State} (h : s.params.env = .reference) {off : Byte} (v : Half)
    (hfirst : off.toNat ≠ indexPort) (hsecond : off.toNat + 1 ≠ indexPort) : (memWrite16 off v s).cidx = s.cidx := by
  have hmid : (dwrite off.toNat (lowByte v) s).params.env = .reference := (framed_dwrite _ _ s).params ▸ h
  rw [memWrite16_eq, answer_cidx, dwrite_cidx_reference hmid, if_neg hsecond, dwrite_cidx_reference h, if_neg hfirst]

/-- Settles O45: no byte of these accesses is a write at `INDEX_PORT`, so the index the high byte of the read meets is the one before. -/
theorem wideAccessPlacement : Obligations.WideAccessPlacement := by
  constructor
  · rintro v s t henv (h | h | h)
    · obtain ⟨-, rfl⟩ := exec_wr16_next_iff.1 h
      exact memWrite16_cidx_reference henv v (by decide) (by decide)
    · obtain ⟨-, rfl⟩ := exec_rd16_next_iff.1 h
      exact memRead16_cidx_reference henv _
    · obtain ⟨-, rfl⟩ := exec_rd16_next_iff.1 h
      exact memRead16_cidx_reference henv _
  · intro s henv hwin hc
    have hmid : (dread indexPort s).2.cidx = scRdIdx := (dread_cidx_reference henv indexPort).trans hc
    obtain ⟨hclk, hdat, -⟩ := dread_frame indexPort s
    have hhigh : (dread dataPort (dread indexPort s).2).1 = readView s.clk s.dat := by
      rw [dread_data_sc_value hmid, hclk, hdat]
    exact ⟨_, _, exec_rd16_inside (off := 0x14) hwin, congrArg (fun b => Answer.half (b ++ _)) hhigh⟩

/-! ### Construction, reset and reload (R170 to R172, D13) -/

theorem exec_reset (s : State) : exec .reset s = .next (answer .nothing (clearLines s)) := rfl

theorem step_genericReinit {s : State} (hp : pending s = some .genericReinit) :
    step s = .next (advance (answer .nothing (genericReinit s))) := step_action hp rfl

/-- Settles O39: the entry is an action on the generic subsystem, which the lines are no part of. -/
theorem genericReinitLeavesTheLines : Obligations.GenericReinitLeavesTheLines :=
  fun _ hp => step_genericReinit hp

/-- Settles O41: RESET clears the lines, which are clear at construction. -/
theorem constructionClearsLines : Obligations.ConstructionClearsLines :=
  ⟨rfl, rfl, fun s => ⟨_, exec_reset s, clearLines_clk s, clearLines_dat s⟩⟩

/-- GETLINES right after RESET answers the read view of two lines that are 0 (R172). -/
theorem execAll_reset_getLines {s : State} (henv : s.params.env = .reference) (hwin : dataPort < s.params.winSize) :
    ∃ u, execAll (.reset :: getLines) s = .next u ∧ u.ret = .byte 0x00 := by
  obtain ⟨-, -, -, u, hrun, hret, -⟩ := pseudoOperations (answer .nothing (clearLines s)) henv hwin
  exact ⟨u, (execAll_cons_next (exec_reset s)).trans hrun, hret.trans (congrArg Answer.byte readView_cleared)⟩

/-- Settles O42: for the example, the lines are set as in R175, and GETLINES reads them as RESET left them. -/
theorem resetClearsLinesAlone : Obligations.ResetClearsLinesAlone := by
  refine ⟨rfl, exec_reset, fun s => ⟨_, exec_reset s, exec_reset _⟩, fun s henv hwin => ?_⟩
  have hset := selectAndWriteInOneAccess 0x30 s henv (Nat.lt_of_succ_lt hwin)
  exact ⟨_, execAll_singleton_next hset, rfl, rfl, execAll_reset_getLines henv hwin⟩

end Sys2Proof.Machine
end
